-- ==== Sys2Proof/Word.lean ====
section
/-! DEFINITION. The widths of the core's words (R6) and its two enumerated elements (R23, R24). -/

namespace Sys2Proof

/-- The command word `cmd[31:0]` (R55). -/
abbrev CommandWord := BitVec 32

/-- The read select `rsel[2:0]` (R63). -/
abbrev Select := BitVec 3

/-- The read data word `rdata[15:0]` (R101), and each 16-bit field of the frame (R6). -/
abbrev ReadWord := BitVec 16

/-- The 40-bit frame register (R6, R21). -/
abbrev FrameWord := BitVec 40

/-- A byte of the frame, and the computed sum (R6, R10). -/
abbrev Byte := BitVec 8

/-- The operand `DUR`, an unsigned duration in the unit of `LONG_REF` and `TOL` (R12, R58). -/
abbrev Duration := BitVec 16

/-- The operand `COUNT`, the capture's unsigned event count (R57). -/
abbrev EventCount := BitVec 16

/-- `PHASE` (R23). The code `0b11` is never reached and the type lacks it (R35, U12). -/
inductive Phase where
  | idle
  | accum
  | done
deriving DecidableEq, Repr, Inhabited

/-- `RESULT` (R24). The codes `0b101` to `0b111` are never reached and the type lacks them (R35, U12). -/
inductive ResultCode where
  | none
  | ok
  | noResponse
  | incompleteCapture
  | checksumMismatch
deriving DecidableEq, Repr, Inhabited

end Sys2Proof
end

