-- ==== Sys2Proof/Config.lean ====
section
/-! DEFINITION. What a build of the core fixes (R4, R5), and the free values. -/

namespace Sys2Proof

/-- The three build-time parameters (R4), each a natural number in 0 to 65535 (R5). They are plain numbers: the
classifier and the capture qualifier compare with them in unbounded integers. -/
structure Params where
  /-- `LONG_REF`: the long reference duration. -/
  longRef : Fin 65536
  /-- `TOL`: the half-width of the tolerance window. -/
  tol : Fin 65536
  /-- `MIN_EVENTS`: the least event count that is not an `IncompleteCapture`. -/
  minEvents : Fin 65536
deriving DecidableEq, Repr

/-- The source's reference values (R4). -/
def Params.default : Params := ⟨70, 5, 42⟩

/-- What `FRAME` holds after the n-th power-up and before the first reset: unspecified (R143, R151), a free value
(log entry 5). -/
opaque Config.powerUpFrame : Nat → FrameWord

/-- What `BITCNT` holds after the n-th power-up: a free value (R143, R151, log entry 5). -/
opaque Config.powerUpBitcnt : Nat → Fin 41

/-- What `PHASE` holds after the n-th power-up: a free value (R143, R151, log entry 5). -/
opaque Config.powerUpPhase : Nat → Phase

/-- What `RESULT` holds after the n-th power-up: a free value (R143, R151, log entry 5). -/
opaque Config.powerUpResult : Nat → ResultCode

/-- What `PROTO_ERR` holds after the n-th power-up: a free value (R143, R151, log entry 5). -/
opaque Config.powerUpProtoErr : Nat → Bool

end Sys2Proof
end

