-- ==== Sys2Proof/Syntax.lean ====
section
/-! DEFINITION. The commands and the reads, one constructor for each row of the opcode table (R59, R63). -/

namespace Sys2Proof

/-- The commands of the command port and the reads of the read port.
The table has three RSVD rows (`0x3`, `0x4` to `0x7`, `0x8` to `0xF`); each has a constructor (log entry 7), and each
keeps the `imm28` of R65, which no meaning reads (R61, R117). -/
inductive Instr where
  /-- NOP: do nothing (R116). -/
  | nop
  /-- START P, COUNT: qualify a capture and begin an attempt (R115). -/
  | start (p : Bool) (count : EventCount)
  /-- PULSE DUR: the next data-pulse duration (R78). -/
  | pulse (dur : Duration)
  /-- RSVD, reserved opcode `0x3` (R117). -/
  | rsvd3 (imm28 : BitVec 28)
  /-- RSVD, reserved opcodes `0x4` to `0x7` (R117). -/
  | rsvd4to7 (opc : BitVec 4) (imm28 : BitVec 28)
  /-- RSVD, reserved opcodes `0x8` to `0xF` (R117). -/
  | rsvd8toF (opc : BitVec 4) (imm28 : BitVec 28)
  /-- RD HUM: the humidity slice (R102). -/
  | rdHum
  /-- RD TEMP: the temperature slice (R103). -/
  | rdTemp
  /-- RD CHK: the computed and the expected checksum (R104). -/
  | rdChk
  /-- RD STATUS: the status word (R105). -/
  | rdStatus
  /-- RD R4 to RD R7: the reserved selects 4 to 7 (R106). -/
  | rdR4toR7 (rsel : Select)
deriving DecidableEq, Repr

end Sys2Proof
end

