-- ==== Sys2Proof/Machine/State.lean ====
section
/-! DEFINITION. The state (R20), the port events of the outside world (R150, R154, R155), the reasons a step can stop,
and the state after reset. -/

namespace Sys2Proof.Machine

/-- The core's whole architectural state, the five elements of R20. -/
structure Arch where
  /-- `FRAME`, the 40-bit shift register (R21). -/
  frame : FrameWord
  /-- `BITCNT`, the data pulses accepted in the current attempt, 0 to 40 (R22). Values 41 to 63 never occur and the
  type lacks them (R35, U12, log entry 6). -/
  bitcnt : Fin 41
  /-- `PHASE` (R23). -/
  phase : Phase
  /-- `RESULT` (R24). -/
  result : ResultCode
  /-- `PROTO_ERR`, the sticky protocol flag (R25). -/
  protoErr : Bool
deriving DecidableEq, Repr

/-- Whether the first reset since power-up has happened (R143, R151). Before it, commands and reads have no meaning. -/
inductive Launch where
  | beforeReset
  | live
deriving DecidableEq, Repr

/-- One thing that the outside world does to the core. -/
inductive PortEvent where
  /-- A rising edge of `clk` with `rst`, `cmd_valid` and `cmd[31:0]` as sampled there (R150, R154). -/
  | edge (rst cmdValid : Bool) (cmd : CommandWord)
  /-- A read between two edges, with its `rsel[2:0]` (R48, R155). -/
  | read (rsel : Select)
  /-- Power is lost and comes back (R143). -/
  | powerUp
deriving DecidableEq, Repr

/-- The state of the model: the build's parameters, the core's five elements, and the model's own fields. -/
structure State where
  /-- The build-time parameters (R4); no step changes them (R5, log entry 1). -/
  params : Params
  /-- Whether the first reset since power-up has happened (R151, log entry 4). -/
  launch : Launch
  /-- The core's whole architectural state (R20). -/
  arch : Arch
  /-- Model's own: the port events still to come, the next one first (log entry 2). -/
  inputs : List PortEvent
  /-- Model's own: the word that the consumer's latest read got back (R101, log entry 3). -/
  lastRead : ReadWord
  /-- Model's own: the power-ups so far, the argument of the free values (log entry 5). -/
  draws : Nat
deriving DecidableEq, Repr

/-- Why the machine stops with a fault. -/
inductive Fault where
  /-- Raised by every command and every read before the first reset since power-up: "a fault of the launch, not a
  value" (R151, U11). Safe: the spec gives such a command or read no meaning. -/
  | beforeFirstReset
deriving DecidableEq, Repr

/-- Why the model gives a step no meaning. -/
inductive Refusal where
  /-- Raised by an arm of `exec` whose instruction has no meaning yet. No arm raises it. Safe. -/
  | notModelled (mnemonic : String)
  /-- Raised by PULSE in ACCUM with `BITCNT = 40`, which no reachable state has (R26 (b)): the count would pass 40,
  and such a core "has no behaviour in this spec" (R35, U12, log entry 6). Safe. -/
  | countPastForty
deriving DecidableEq, Repr

/-- The reset values of the five elements (R20, R150). -/
def Arch.reset : Arch :=
  { frame := 0x0#40, bitcnt := 0, phase := .idle, result := .none, protoErr := false }

/-- A core built with the parameters `P`, right after reset, with no event to come. -/
def State.resetWith (P : Params) : State :=
  { params := P, launch := .live, arch := Arch.reset, inputs := [], lastRead := 0x0000#16, draws := 0 }

/-- The default build (R4) right after reset. -/
def State.reset : State := State.resetWith Params.default

end Sys2Proof.Machine
end

