-- ==== Sys2Proof/Machine/Operands.lean ====
section
/-! DEFINITION. The parts of a frame (R10, R100) and the producer's operand widths (R60, R82). -/

namespace Sys2Proof.Machine

/-- `byte_k(F) = F[8k+7 : 8k]` (R10, R44). -/
def byteOf (F : FrameWord) (k : Nat) : Byte := F.extractLsb' (8 * k) 8

/-- `HUM(F) = F[39:24]` (R100). -/
def hum (F : FrameWord) : ReadWord := F.extractLsb' 24 16

/-- `TEMP(F) = F[23:8]` (R100). Bit 15 is `F[23]`, passed through (R108). -/
def temp (F : FrameWord) : ReadWord := F.extractLsb' 8 16

/-- `CHKB(F) = F[7:0]`, the received checksum byte (R100). -/
def chkb (F : FrameWord) : Byte := F.extractLsb' 0 8

/-- How the producer puts a wider count or duration into 16 bits: "saturating it and never wrapping it" (R60, R82). -/
def saturate16 (n : Nat) : BitVec 16 := BitVec.ofNat 16 (min n 65535)

/-- START's second check, an unsigned integer comparison (R115, R121): the count reaches `MIN_EVENTS`. -/
def countQualifies (P : Params) (count : EventCount) : Bool := decide (P.minEvents.val ≤ count.toNat)

/-- The next value of `BITCNT`, none where it would pass 40 (R22). -/
def nextCount (n : Fin 41) : Option (Fin 41) :=
  if h : n.val + 1 < 41 then some ⟨n.val + 1, h⟩ else none

end Sys2Proof.Machine
end

