-- ==== Sys2Proof/Machine/Checksum.lean ====
section
/-! DEFINITION. The checksum reducer (R90, R91). It has no command of its own. -/

namespace Sys2Proof.Machine

/-- `SUM(F) = (byte_4(F) + byte_3(F) + byte_2(F) + byte_1(F)) mod 256` (R90, C3): the exact sum of the four data
bytes, then its low 8 bits. `byte_0` never enters it. -/
def checksum (F : FrameWord) : Byte :=
  BitVec.ofNat 8 (((byteOf F 4).toNat + (byteOf F 3).toNat + (byteOf F 2).toNat + (byteOf F 1).toNat) % 256)

/-- `CHK_OK(F) = (SUM(F) == F[7:0])` (R91). -/
def chkOk (F : FrameWord) : Bool := checksum F == byteOf F 0

/-- The outcome that the 40th PULSE latches (R78, R92, R133 item 3). -/
def verdict (F : FrameWord) : ResultCode := if chkOk F then .ok else .checksumMismatch

end Sys2Proof.Machine
end

