-- ==== Sys2Proof/WellFormed.lean ====
section
/-! DEFINITION. The operand ranges that the encodings admit (R59, R63, R65). -/

namespace Sys2Proof

/-- An instruction is well-formed when its opcode or select operand lies in its row's range
("An assembler rejects any operand outside its range", R65). The other operands fill their fields exactly. -/
def Instr.wellFormed : Instr → Bool
  | .nop => true
  | .start _ _ => true
  | .pulse _ => true
  | .rsvd3 _ => true
  | .rsvd4to7 opc _ => decide (4 ≤ opc.toNat) && decide (opc.toNat ≤ 7)
  | .rsvd8toF opc _ => decide (8 ≤ opc.toNat)
  | .rdHum => true
  | .rdTemp => true
  | .rdChk => true
  | .rdStatus => true
  | .rdR4toR7 rsel => decide (4 ≤ rsel.toNat)

end Sys2Proof
end

