-- ==== Sys2Proof/Decode.lean ====
section
/-! DEFINITION. Decoding and encoding of the command word and the read select (R55 to R65). The words are port words:
they have no byte order (R41, N7). -/

namespace Sys2Proof

/-- What stands on one of the two input ports: a command word (R55) or a read select (R63). -/
inductive PortWord where
  | command (w : CommandWord)
  | select (rsel : Select)
deriving DecidableEq, Repr

/-- Why a transfer is not a port word. Every 32-bit word is a command and every 3-bit value a select (R59, R63), so
only a wrong length or a value that does not fit is rejected (R47, R64). Safe: the core never sees such a transfer. -/
inductive DecodeRefusal where
  /-- Raised by `decodeTransfer`: the length is neither a command's nor a select's. Safe. -/
  | noSuchLength (nbits : Nat)
  /-- Raised by `decodeTransfer`: the value does not fit in `cmd[31:0]`. Safe. -/
  | widerThanCommand
  /-- Raised by `decodeTransfer`: the value does not fit in `rsel[2:0]`. Safe. -/
  | widerThanSelect
deriving DecidableEq, Repr

/-! ### The fields of the command word -/

/-- `cmd[31:28]`, the opcode (R55). -/
def opcField (w : CommandWord) : BitVec 4 := w.extractLsb' 28 4

/-- `cmd[27:0]` (R55), RSVD's `imm28` (R65). -/
def imm28Field (w : CommandWord) : BitVec 28 := w.extractLsb' 0 28

/-- START's `P`, `cmd[16]` (R57). -/
def pField (w : CommandWord) : Bool := w.getLsbD 16

/-- START's `COUNT`, `cmd[15:0]` (R57). -/
def countField (w : CommandWord) : EventCount := w.extractLsb' 0 16

/-- PULSE's `DUR`, `cmd[15:0]` (R58). -/
def durField (w : CommandWord) : Duration := w.extractLsb' 0 16

/-! ### Decoding -/

/-- `decode(cmd[31:0])` of R59: `cmd[31:28]` alone selects the command, and every word is one. Reserved bits of NOP,
START and PULSE are ignored (R61). -/
def decodeCommand (w : CommandWord) : Instr :=
  if opcField w = 0x0#4 then .nop
  else if opcField w = 0x1#4 then .start (pField w) (countField w)
  else if opcField w = 0x2#4 then .pulse (durField w)
  else if opcField w = 0x3#4 then .rsvd3 (imm28Field w)
  else if (opcField w).toNat ≤ 7 then .rsvd4to7 (opcField w) (imm28Field w)
  else .rsvd8toF (opcField w) (imm28Field w)

/-- The select map of R63 and R101. -/
def decodeSelect (rsel : Select) : Instr :=
  if rsel = 0#3 then .rdHum
  else if rsel = 1#3 then .rdTemp
  else if rsel = 2#3 then .rdChk
  else if rsel = 3#3 then .rdStatus
  else .rdR4toR7 rsel

/-- The instruction that a port word stands for. -/
def decode : PortWord → Instr
  | .command w => decodeCommand w
  | .select rsel => decodeSelect rsel

/-- The port word of a transfer of `nbits` bits with value `w`, total on every transfer and rejecting by name. A
command is 32 bits (R64); a select is 3 bits, given as 3 bits or in one whole byte (log entry 8). -/
def portWordOf (nbits w : Nat) : Except DecodeRefusal PortWord :=
  if nbits = 32 then
    if w < 2 ^ 32 then .ok (.command (BitVec.ofNat 32 w)) else .error .widerThanCommand
  else if nbits = 3 ∨ nbits = 8 then
    if w < 2 ^ 3 then .ok (.select (BitVec.ofNat 3 w)) else .error .widerThanSelect
  else .error (.noSuchLength nbits)

/-- The instruction of a transfer, or why there is none. -/
def decodeTransfer (nbits w : Nat) : Except DecodeRefusal Instr :=
  match portWordOf nbits w with
  | .ok pw => .ok (decode pw)
  | .error e => .error e

/-- The instruction that the decoder reads from an opcode-table word, none where it refuses. -/
def decodeTableWord (nbits w : Nat) : Option Instr :=
  match decodeTransfer nbits w with
  | .ok i => some i
  | .error _ => none

/-! ### Encoding -/

/-- Format N: the opcode and 28 zero bits (R56). -/
def formatN (opc : BitVec 4) : CommandWord := opc ++ 0#28

/-- Format S: opcode, reserved bits 0, `P`, `COUNT` (R57). -/
def formatS (p : Bool) (count : EventCount) : CommandWord := 0x1#4 ++ 0#11 ++ BitVec.ofBool p ++ count

/-- Format P: opcode, reserved bits 0, `DUR` (R58). -/
def formatP (dur : Duration) : CommandWord := 0x2#4 ++ 0#12 ++ dur

/-- A reserved word: the opcode and `imm28` (R65). -/
def formatRsvd (opc : BitVec 4) (imm28 : BitVec 28) : CommandWord := opc ++ imm28

/-- The port word that the assembler gives an instruction, with all reserved fields 0 (R65). -/
def encode : Instr → PortWord
  | .nop => .command (formatN 0x0#4)
  | .start p count => .command (formatS p count)
  | .pulse dur => .command (formatP dur)
  | .rsvd3 imm28 => .command (formatRsvd 0x3#4 imm28)
  | .rsvd4to7 opc imm28 => .command (formatRsvd opc imm28)
  | .rsvd8toF opc imm28 => .command (formatRsvd opc imm28)
  | .rdHum => .select 0#3
  | .rdTemp => .select 1#3
  | .rdChk => .select 2#3
  | .rdStatus => .select 3#3
  | .rdR4toR7 rsel => .select rsel

/-! ### The opcode table -/

/-- The command rows of the opcode table, each a mask and a pattern of `cmd[31:0]`, in the table's order: NOP, START,
PULSE and the three RSVD rows. -/
def commandRows : List (CommandWord × CommandWord) :=
  [(0xF0000000#32, 0x00000000#32), (0xF0000000#32, 0x10000000#32), (0xF0000000#32, 0x20000000#32),
   (0xF0000000#32, 0x30000000#32), (0xC0000000#32, 0x40000000#32), (0x80000000#32, 0x80000000#32)]

/-- The read rows of the opcode table, each a mask and a pattern of `rsel[2:0]`, in the table's order. -/
def selectRows : List (Select × Select) :=
  [(0x7#3, 0x0#3), (0x7#3, 0x1#3), (0x7#3, 0x2#3), (0x7#3, 0x3#3), (0x4#3, 0x4#3)]

/-- The row of `commandRows` that a command stands in, none for a read. -/
def commandRowOf : Instr → Option Nat
  | .nop => some 0
  | .start _ _ => some 1
  | .pulse _ => some 2
  | .rsvd3 _ => some 3
  | .rsvd4to7 _ _ => some 4
  | .rsvd8toF _ _ => some 5
  | .rdHum | .rdTemp | .rdChk | .rdStatus | .rdR4toR7 _ => none

/-- The row of `selectRows` that a read stands in, none for a command. -/
def selectRowOf : Instr → Option Nat
  | .rdHum => some 0
  | .rdTemp => some 1
  | .rdChk => some 2
  | .rdStatus => some 3
  | .rdR4toR7 _ => some 4
  | .nop | .start _ _ | .pulse _ | .rsvd3 _ | .rsvd4to7 _ _ | .rsvd8toF _ _ => none

/-- The rows of a mask-and-pattern table that a word matches, by index. -/
def rowsMatching {n : Nat} (rows : List (BitVec n × BitVec n)) (w : BitVec n) : List Nat :=
  (List.range rows.length).filter fun k =>
    match rows[k]? with
    | some (mask, pattern) => w &&& mask == pattern
    | none => false

end Sys2Proof
end

