-- ==== Sys2Proof/Machine/Flags.lean ====
section
/-! DEFINITION. The flag-like values (R25, R27, R32), the codes of PHASE and RESULT (R23, R24) and the STATUS word
(R33). -/

namespace Sys2Proof.Machine

/-- The code of a phase (R23). -/
def phaseCode : Phase → BitVec 2
  | .idle => 0b00#2
  | .accum => 0b01#2
  | .done => 0b10#2

/-- The code of a result (R24). -/
def resultCode : ResultCode → BitVec 3
  | .none => 0b000#3
  | .ok => 0b001#3
  | .noResponse => 0b010#3
  | .incompleteCapture => 0b011#3
  | .checksumMismatch => 0b100#3

/-- `VALID = (PHASE == DONE and RESULT == OK)` (R27, R107). -/
def Arch.valid (a : Arch) : Bool := a.phase == .done && a.result == .ok

/-- `PROTO_ERR <- 1`; every other element keeps its value (R25, R132). -/
def Arch.setProtoErr (a : Arch) : Arch := { a with protoErr := true }

/-- `BITCNT` as its six bits (R20, R33). -/
def Arch.bitcntBits (a : Arch) : BitVec 6 := BitVec.ofNat 6 a.bitcnt.val

/-- `STATUS = {3'b000, VALID, PROTO_ERR, RESULT[2:0], PHASE[1:0], BITCNT[5:0]}` (R33). -/
def Arch.statusWord (a : Arch) : ReadWord :=
  0b000#3 ++ BitVec.ofBool a.valid ++ BitVec.ofBool a.protoErr ++ resultCode a.result ++ phaseCode a.phase ++ a.bitcntBits

end Sys2Proof.Machine
end

