-- ==== Sys2Proof/Machine/Ops.lean ====
section
/-! DEFINITION. The named operations that the meanings share. The core takes no trap and returns from none (R130,
R137); what stands in their place is entering DONE (R136), `Arch.enterDone`, and opening an attempt (R115, R137),
`Arch.openAttempt`. -/

namespace Sys2Proof.Machine

/-- The outcome of a step of this machine. -/
abbrev StepOutcome := Host.Outcome State Fault Refusal

/-- The state with its five architectural elements written. -/
def State.setArch (s : State) (a : Arch) : State := { s with arch := a }

/-- The state with the word that a read gave the consumer. -/
def State.setLastRead (s : State) (w : ReadWord) : State := { s with lastRead := w }

/-- The state with the port events that are still to come. -/
def State.setInputs (s : State) (es : List PortEvent) : State := { s with inputs := es }

/-- Commands and reads have their meaning only after the first reset since power-up (R151). -/
def ifLive (s : State) (o : StepOutcome) : StepOutcome :=
  match s.launch with
  | .live => o
  | .beforeReset => .fault .beforeFirstReset

/-- Entering DONE with an outcome (R119, R136): PHASE and RESULT are written, FRAME and BITCNT stay. -/
def Arch.enterDone (a : Arch) (r : ResultCode) : Arch := { a with phase := .done, result := r }

/-- START's clearing of FRAME, BITCNT and PROTO_ERR (R115). -/
def Arch.cleared (a : Arch) : Arch := { a with frame := 0x0#40, bitcnt := 0, protoErr := false }

/-- Entering ACCUM (R115): PHASE is ACCUM and there is no outcome yet. -/
def Arch.openAttempt (a : Arch) : Arch := { a with phase := .accum, result := .none }

/-- A breach of the command protocol (R132): PROTO_ERR is set and nothing else changes. -/
def flagProtocolError (s : State) : StepOutcome := .next (s.setArch s.arch.setProtoErr)

/-- A read (R48, R101): the consumer gets the word, and the core keeps its whole state. -/
def giveRead (s : State) (w : ReadWord) : StepOutcome := .next (s.setLastRead w)

/-- RESET (R150): every element takes its reset value. From here on commands and reads have a meaning (R151). -/
def resetCore (s : State) : State := { s with arch := Arch.reset, launch := .live }

/-- Power is lost and comes back (R143): the whole state is lost, and it is unspecified until reset (R151). The
contents are free values (log entry 5). -/
def powerUpCore (s : State) : State :=
  { s with
    launch := .beforeReset
    arch :=
      { frame := Config.powerUpFrame s.draws
        bitcnt := Config.powerUpBitcnt s.draws
        phase := Config.powerUpPhase s.draws
        result := Config.powerUpResult s.draws
        protoErr := Config.powerUpProtoErr s.draws }
    draws := s.draws + 1 }

/-- The port event that presents a port word: an edge with `rst = 0` and `cmd_valid = 1` (R154), or a read (R155). -/
def presentWord : PortWord → PortEvent
  | .command w => .edge false true w
  | .select rsel => .read rsel

/-- The state with `pw` as the very next port event, before those still to come. -/
def State.present (s : State) (pw : PortWord) : State := s.setInputs (presentWord pw :: s.inputs)

end Sys2Proof.Machine
end

