-- ==== Sys2Proof/Machine/FieldMux.lean ====
section
/-! DEFINITION. The field-slice multiplexer: the read port (R101), the reads (R102 to R106) and the result port
(R107). -/

namespace Sys2Proof.Machine

/-- RD CHK's word, `{SUM(FRAME), FRAME[7:0]}` (R104). -/
def chkWord (F : FrameWord) : ReadWord := checksum F ++ chkb F

/-- `Read(S, rsel)` (R101): a function of the state, raw in every phase. -/
def Arch.readPort (a : Arch) (rsel : Select) : ReadWord :=
  if rsel = 0#3 then hum a.frame
  else if rsel = 1#3 then temp a.frame
  else if rsel = 2#3 then chkWord a.frame
  else if rsel = 3#3 then a.statusWord
  else 0x0000#16

/-- `rdata[15:0]` for a select, a combinational function of the state (R155). Before the first reset it has no value
(R151). -/
def State.rdata (s : State) (rsel : Select) : Option ReadWord :=
  match s.launch with
  | .live => some (s.arch.readPort rsel)
  | .beforeReset => none

/-- The result port's outputs (R107). -/
structure ResultPort where
  done : Bool
  code : BitVec 3
  valid : Bool
  humidity : ReadWord
  temperature : ReadWord
deriving DecidableEq, Repr

/-- The result port as a function of the five elements (R107): the fields are gated to 0 unless VALID. -/
def Arch.resultPort (a : Arch) : ResultPort :=
  { done := a.phase == .done
    code := resultCode a.result
    valid := a.valid
    humidity := if a.valid then hum a.frame else 0x0000#16
    temperature := if a.valid then temp a.frame else 0x0000#16 }

/-- The result port of a state (R107). Before the first reset it has no value (R151). -/
def State.resultPort (s : State) : Option ResultPort :=
  match s.launch with
  | .live => some s.arch.resultPort
  | .beforeReset => none

/-- RD HUM (R102). -/
def execRdHum (s : State) : StepOutcome := ifLive s (giveRead s (hum s.arch.frame))

/-- RD TEMP (R103). -/
def execRdTemp (s : State) : StepOutcome := ifLive s (giveRead s (temp s.arch.frame))

/-- RD CHK (R104). -/
def execRdChk (s : State) : StepOutcome := ifLive s (giveRead s (chkWord s.arch.frame))

/-- RD STATUS (R105). -/
def execRdStatus (s : State) : StepOutcome := ifLive s (giveRead s s.arch.statusWord)

/-- RD R4, RD R5, RD R6 and RD R7 (R106): the value is 0 in every state. -/
def execRdR4toR7 (s : State) : StepOutcome := ifLive s (giveRead s 0x0000#16)

end Sys2Proof.Machine
end

