-- ==== Sys2Proof/Machine/FrameDecoder.lean ====
section
/-! DEFINITION. The pulse-duration classifier (R75, R76), the frame accumulator (R77) and PULSE (R78). -/

namespace Sys2Proof.Machine

/-- `classify(d)` (R75): 1 when `LONG_REF - TOL <= d <= LONG_REF + TOL`, compared in unbounded integers. No duration
is rejected (R76). -/
def classify (P : Params) (d : Duration) : Bool :=
  decide ((P.longRef.val : Int) - (P.tol.val : Int) ≤ (d.toNat : Int)
    ∧ (d.toNat : Int) ≤ (P.longRef.val : Int) + (P.tol.val : Int))

/-- `shift_in(F, b) = {F[38:0], b}` (R77): the bit enters at bit 0 and the old `F[39]` is lost (R21). -/
def shiftIn (F : FrameWord) (b : Bool) : FrameWord := F.extractLsb' 0 39 ++ BitVec.ofBool b

/-- One data pulse in ACCUM (R78): the bit is shifted in and counted, and the 40th ends the attempt with the verdict
over the frame that includes its own bit. None where the count would pass 40 (log entry 6). -/
def accumulate (P : Params) (dur : Duration) (a : Arch) : Option Arch :=
  match nextCount a.bitcnt with
  | some n =>
    let taken : Arch := { a with frame := shiftIn a.frame (classify P dur), bitcnt := n }
    some (if n.val = 40 then taken.enterDone (verdict taken.frame) else taken)
  | none => none

/-- PULSE DUR (R78): taken in ACCUM; dropped and flagged in IDLE and DONE. -/
def execPulse (dur : Duration) (s : State) : StepOutcome :=
  ifLive s <|
    match s.arch.phase with
    | .accum =>
      match accumulate s.params dur s.arch with
      | some a => .next (s.setArch a)
      | none => .refused .countPastForty
    | .idle => flagProtocolError s
    | .done => flagProtocolError s

end Sys2Proof.Machine
end

