-- ==== Sys2Proof/Machine/Sequencer.lean ====
section
/-! DEFINITION. The capture qualifier and result sequencer: START (R115), NOP (R116) and the reserved opcodes (R117). -/

namespace Sys2Proof.Machine

/-- What START leaves (R115): the absent buffer is checked before the count (R133 item 1, C7). -/
def startAttempt (P : Params) (p : Bool) (count : EventCount) (a : Arch) : Arch :=
  if p = false then a.cleared.enterDone .noResponse
  else if countQualifies P count then a.cleared.openAttempt
  else a.cleared.enterDone .incompleteCapture

/-- START P, COUNT (R115), accepted in every phase. -/
def execStart (p : Bool) (count : EventCount) (s : State) : StepOutcome :=
  ifLive s (.next (s.setArch (startAttempt s.params p count s.arch)))

/-- NOP (R116): `S' = S`. -/
def execNop (s : State) : StepOutcome := ifLive s (.next s)

/-- RSVD with opcode `0x3` (R62, R117). -/
def execRsvd3 (s : State) : StepOutcome := ifLive s (flagProtocolError s)

/-- RSVD with an opcode `0x4` to `0x7` (R62, R117). -/
def execRsvd4to7 (s : State) : StepOutcome := ifLive s (flagProtocolError s)

/-- RSVD with an opcode `0x8` to `0xF` (R62, R117). -/
def execRsvd8toF (s : State) : StepOutcome := ifLive s (flagProtocolError s)

end Sys2Proof.Machine
end

