-- ==== Sys2Proof/Machine/Dispatch.lean ====
section
/-! DEFINITION. One arm for each constructor of Instr, each a call of that instruction's own meaning. -/

namespace Sys2Proof.Machine

def exec (i : Instr) (s : State) : Host.Outcome State Fault Refusal :=
  match i with
  | .nop => Sys2Proof.Machine.execNop s
  | .start p count => Sys2Proof.Machine.execStart p count s
  | .pulse dur => Sys2Proof.Machine.execPulse dur s
  | .rsvd3 _ => Sys2Proof.Machine.execRsvd3 s
  | .rsvd4to7 _ _ => Sys2Proof.Machine.execRsvd4to7 s
  | .rsvd8toF _ _ => Sys2Proof.Machine.execRsvd8toF s
  | .rdHum => Sys2Proof.Machine.execRdHum s
  | .rdTemp => Sys2Proof.Machine.execRdTemp s
  | .rdChk => Sys2Proof.Machine.execRdChk s
  | .rdStatus => Sys2Proof.Machine.execRdStatus s
  | .rdR4toR7 _ => Sys2Proof.Machine.execRdR4toR7 s

end Sys2Proof.Machine
end

