-- ==== Sys2Proof/Machine/Step.lean ====
section
/-! DEFINITION. One step takes the next port event: a clock edge (R150, R154), a read between edges (R155), or a
power-up (R143). With no event the core keeps its whole state (R143). -/

namespace Sys2Proof.Machine

/-- One step. At an edge reset comes before everything (R133 item 4, R150); then a valid command is decoded and run
(R154); an edge with `cmd_valid = 0` changes nothing (R154). -/
def step (s : State) : Host.Outcome State Fault Refusal :=
  match s.inputs with
  | [] => .next s
  | .edge true _ _ :: rest => .next (resetCore (s.setInputs rest))
  | .edge false true cmd :: rest => exec (decodeCommand cmd) (s.setInputs rest)
  | .edge false false _ :: rest => .next (s.setInputs rest)
  | .read rsel :: rest => exec (decodeSelect rsel) (s.setInputs rest)
  | .powerUp :: rest => .next (powerUpCore (s.setInputs rest))

/-- The state in which an opcode-table word is the very next port event: a command word is presented at an edge with
`rst = 0` and `cmd_valid = 1`, a select in a read (log entry 2). A transfer that is no port word leaves the state. -/
def State.withFetchWord (s : State) (nbits w : Nat) : State :=
  match portWordOf nbits w with
  | .ok pw => s.present pw
  | .error _ => s

end Sys2Proof.Machine
end

