-- ==== Sys2Proof/Machine/Assembler.lean ====
section
/-! DEFINITION. The assembler of R65 and the pseudo-commands of R66: notation for command streams, used by no step of
the core. What R65 leaves open about the text is log entry 11. -/

namespace Sys2Proof.Machine

/-- A line of a command stream after its text is read (R65), the pseudo-commands of R66 among them. Operands are the
numbers as written. -/
inductive AsmLine where
  | nop
  | start (p count : Nat)
  | pulse (dur : Nat)
  | rsvd (opc imm28 : Nat)
  | rd (sel : Nat)
  | bit0
  | bit1
  | absent
  | beginCapture
  | frameBits (v : Nat)
deriving DecidableEq, Repr

/-- Why a line is rejected. -/
inductive AsmError where
  /-- Raised by `assembleLine`: an operand lies outside its range (R65). Safe: no word is made. -/
  | operandOutOfRange
  /-- Raised by `parseLine`: the line's first word is no mnemonic. Safe: no word is made. -/
  | unknownMnemonic
  /-- Raised by `parseLine`: the operands are not those of the mnemonic. Safe: no word is made. -/
  | wrongOperands
deriving DecidableEq, Repr

/-- `PULSE dur` (R65). -/
def asmPulse (dur : Nat) : PortWord := encode (.pulse (BitVec.ofNat 16 dur))

/-- `START p, count` (R65). -/
def asmStart (p count : Nat) : PortWord := encode (.start (p == 1) (BitVec.ofNat 16 count))

/-- `RSVD opc, imm28`: the reserved instruction of an opcode `0x3` to `0xF` (R65). -/
def asmRsvd (opc imm28 : Nat) : PortWord :=
  if opc = 3 then encode (.rsvd3 (BitVec.ofNat 28 imm28))
  else if opc ≤ 7 then encode (.rsvd4to7 (BitVec.ofNat 4 opc) (BitVec.ofNat 28 imm28))
  else encode (.rsvd8toF (BitVec.ofNat 4 opc) (BitVec.ofNat 28 imm28))

/-- `BIT0` is `PULSE 25` (R66). -/
def asmBit0 : PortWord := asmPulse 25

/-- `BIT1` is `PULSE LONG_REF` (R66). -/
def asmBit1 (P : Params) : PortWord := asmPulse P.longRef.val

/-- `FRAMEBITS v`: 40 lines, for i = 0 to 39 `BIT1` if `v[39-i] = 1` else `BIT0` (R66). -/
def asmFrameBits (P : Params) (v : Nat) : List PortWord :=
  (List.range 40).map fun i => if v.testBit (39 - i) then asmBit1 P else asmBit0

/-- The port words of a line under a build's parameters; an operand outside its range is rejected (R65). -/
def assembleLine (P : Params) : AsmLine → Except AsmError (List PortWord)
  | .nop => .ok [encode .nop]
  | .start p count =>
    if p ≤ 1 ∧ count ≤ 65535 then .ok [asmStart p count] else .error .operandOutOfRange
  | .pulse dur => if dur ≤ 65535 then .ok [asmPulse dur] else .error .operandOutOfRange
  | .rsvd opc imm28 =>
    if 3 ≤ opc ∧ opc ≤ 15 ∧ imm28 < 2 ^ 28 then .ok [asmRsvd opc imm28] else .error .operandOutOfRange
  | .rd sel => if sel ≤ 7 then .ok [.select (BitVec.ofNat 3 sel)] else .error .operandOutOfRange
  | .bit0 => .ok [asmBit0]
  | .bit1 => .ok [asmBit1 P]
  | .absent => .ok [asmStart 0 0]
  | .beginCapture => .ok [asmStart 1 P.minEvents.val]
  | .frameBits v => if v < 2 ^ 40 then .ok (asmFrameBits P v) else .error .operandOutOfRange

/-! ### The text of a line -/

/-- Whitespace inside a line (R65). -/
def isBlank (c : Char) : Bool := c == ' ' || c == '\t' || c == '\r'

/-- A text without the whitespace at its two ends. -/
def trimBlank (cs : List Char) : List Char := ((cs.dropWhile isBlank).reverse.dropWhile isBlank).reverse

/-- A digit's value in base 16. -/
def digitValue (c : Char) : Option Nat :=
  if '0' ≤ c ∧ c ≤ '9' then some (c.toNat - 48)
  else if 'a' ≤ c ∧ c ≤ 'f' then some (c.toNat - 87)
  else if 'A' ≤ c ∧ c ≤ 'F' then some (c.toNat - 55)
  else none

/-- The number that digits write in a base, after what is already read. -/
def readDigits (base : Nat) : Nat → List Char → Option Nat
  | n, [] => some n
  | n, c :: cs =>
    match digitValue c with
    | some d => if d < base then readDigits base (base * n + d) cs else none
    | none => none

/-- A number: decimal, or hexadecimal with `0x` (R65). -/
def readNumber : List Char → Option Nat
  | [] => none
  | ['0', 'x'] => none
  | '0' :: 'x' :: cs => readDigits 16 0 cs
  | c :: cs => readDigits 10 0 (c :: cs)

/-- The select that a name of `RD` stands for, "in the order of rule R63" (R65). -/
def readSelect (cs : List Char) : Option Nat :=
  if cs = "HUM".toList then some 0
  else if cs = "TEMP".toList then some 1
  else if cs = "CHK".toList then some 2
  else if cs = "STATUS".toList then some 3
  else if cs = "R4".toList then some 4
  else if cs = "R5".toList then some 5
  else if cs = "R6".toList then some 6
  else if cs = "R7".toList then some 7
  else none

/-- The operands after a mnemonic: none for an empty text, else the parts between commas (R65). -/
def splitOperands (cs : List Char) : List (List Char) :=
  if trimBlank cs = [] then [] else (cs.splitOn ',').map trimBlank

/-- A line that takes no operand. -/
def noOperand (l : AsmLine) : List (List Char) → Except AsmError AsmLine
  | [] => .ok l
  | _ :: _ => .error .wrongOperands

/-- A line that takes one number. -/
def oneNumber (l : Nat → AsmLine) : List (List Char) → Except AsmError AsmLine
  | [x] =>
    match readNumber x with
    | some n => .ok (l n)
    | none => .error .wrongOperands
  | [] => .error .wrongOperands
  | _ :: _ :: _ => .error .wrongOperands

/-- A line that takes two numbers. -/
def twoNumbers (l : Nat → Nat → AsmLine) : List (List Char) → Except AsmError AsmLine
  | [x, y] =>
    match readNumber x, readNumber y with
    | some m, some n => .ok (l m n)
    | none, _ => .error .wrongOperands
    | some _, none => .error .wrongOperands
  | [] => .error .wrongOperands
  | [_] => .error .wrongOperands
  | _ :: _ :: _ :: _ => .error .wrongOperands

/-- `RD`'s line. -/
def oneSelect : List (List Char) → Except AsmError AsmLine
  | [x] =>
    match readSelect x with
    | some n => .ok (.rd n)
    | none => .error .wrongOperands
  | [] => .error .wrongOperands
  | _ :: _ :: _ => .error .wrongOperands

/-- The line of a mnemonic and its operands (R65, R66). -/
def lineOf (mnemonic : List Char) (ops : List (List Char)) : Except AsmError AsmLine :=
  if mnemonic = "NOP".toList then noOperand .nop ops
  else if mnemonic = "START".toList then twoNumbers .start ops
  else if mnemonic = "PULSE".toList then oneNumber .pulse ops
  else if mnemonic = "RSVD".toList then twoNumbers .rsvd ops
  else if mnemonic = "RD".toList then oneSelect ops
  else if mnemonic = "BIT0".toList then noOperand .bit0 ops
  else if mnemonic = "BIT1".toList then noOperand .bit1 ops
  else if mnemonic = "ABSENT".toList then noOperand .absent ops
  else if mnemonic = "BEGIN".toList then noOperand .beginCapture ops
  else if mnemonic = "FRAMEBITS".toList then oneNumber .frameBits ops
  else .error .unknownMnemonic

/-- One line of text: `;` starts a comment, whitespace separates the mnemonic from its operands, commas separate
operands (R65). None for a line with no command. -/
def parseLine (text : List Char) : Except AsmError (Option AsmLine) :=
  let body := trimBlank (text.takeWhile (· != ';'))
  if body = [] then .ok none
  else
    match lineOf (body.takeWhile (! isBlank ·)) (splitOperands (body.dropWhile (! isBlank ·))) with
    | .ok l => .ok (some l)
    | .error e => .error e

/-- The port words of one line of text. -/
def assembleText (P : Params) (text : List Char) : Except AsmError (List PortWord) :=
  match parseLine text with
  | .ok none => .ok []
  | .ok (some l) => assembleLine P l
  | .error e => .error e

/-- The port words of a command stream, one command per line (R65). The first bad line rejects the stream. -/
def assembleStream (P : Params) : List (List Char) → Except AsmError (List PortWord)
  | [] => .ok []
  | line :: lines =>
    match assembleText P line, assembleStream P lines with
    | .ok ws, .ok rest => .ok (ws ++ rest)
    | .error e, _ => .error e
    | .ok _, .error e => .error e

end Sys2Proof.Machine
end

