-- ==== Sys2Proof/Safety.lean ====
section
/-! DEFINITION. What counts as a safe run, in the terms that claims use: completion, the invariant of reachable states
(R26), a run of commands, an attempt and the producer's contract (R122, R159). -/

namespace Sys2Proof.Machine

/-- An outcome that is a next state: the step completes (R130, R156). -/
def Completes (o : StepOutcome) : Prop := ∃ t, o = .next t

/-- R26 (a) to (e) for the five elements, less the sentence of (b) about the pulses' history; (f) is in the types. -/
abbrev Arch.Reachable (a : Arch) : Prop :=
  (a.phase = .idle → a.frame = 0 ∧ a.bitcnt.val = 0 ∧ a.result = .none)
  ∧ (a.phase = .accum → a.bitcnt.val ≤ 39 ∧ a.result = .none ∧ a.frame.toNat < 2 ^ a.bitcnt.val)
  ∧ (a.phase = .done → a.result ≠ .none)
  ∧ ((a.result = .ok ∨ a.result = .checksumMismatch) ↔ (a.phase = .done ∧ a.bitcnt.val = 40))
  ∧ (a.phase = .done → a.bitcnt.val = 40 → (a.result = .ok ↔ chkOk a.frame = true))
  ∧ ((a.result = .noResponse ∨ a.result = .incompleteCapture) →
      a.phase = .done ∧ a.bitcnt.val = 0 ∧ a.frame = 0)

/-- The invariant: once the core has been reset, R26 holds. Before that its contents are unspecified (R151). -/
abbrev StateInv (s : State) : Prop := s.launch = .live → s.arch.Reachable

/-- Commands and reads taken one after the other, in issue order (R49), stopping at the first stop. -/
def execAll : List Instr → State → StepOutcome
  | [], s => .next s
  | i :: is, s =>
    match exec i s with
    | .next t => execAll is t
    | .fault f => .fault f
    | .refused r => .refused r

/-- Whether an instruction is START, the one command that opens an attempt (R13). -/
def isStart : Instr → Bool
  | .start _ _ => true
  | .nop | .pulse _ | .rsvd3 _ | .rsvd4to7 _ _ | .rsvd8toF _ _ => false
  | .rdHum | .rdTemp | .rdChk | .rdStatus | .rdR4toR7 _ => false

/-- Whether an instruction is a reserved opcode (R117). -/
def isRsvd : Instr → Bool
  | .rsvd3 _ | .rsvd4to7 _ _ | .rsvd8toF _ _ => true
  | .nop | .start _ _ | .pulse _ => false
  | .rdHum | .rdTemp | .rdChk | .rdStatus | .rdR4toR7 _ => false

/-- Whether an instruction is a read (R63). -/
def isRead : Instr → Bool
  | .rdHum | .rdTemp | .rdChk | .rdStatus | .rdR4toR7 _ => true
  | .nop | .start _ _ | .pulse _ | .rsvd3 _ | .rsvd4to7 _ _ | .rsvd8toF _ _ => false

/-- The durations of a command stream's PULSEs, in capture order. -/
def durationsOf : List Instr → List Duration
  | [] => []
  | .pulse dur :: is => dur :: durationsOf is
  | .nop :: is | .start _ _ :: is | .rsvd3 _ :: is | .rsvd4to7 _ _ :: is | .rsvd8toF _ _ :: is => durationsOf is
  | .rdHum :: is | .rdTemp :: is | .rdChk :: is | .rdStatus :: is | .rdR4toR7 _ :: is => durationsOf is

/-- A START that qualifies (R115, R121). -/
def Qualifies (P : Params) (p : Bool) (count : EventCount) : Prop := p = true ∧ P.minEvents.val ≤ count.toNat

/-- The producer's contract for a qualified attempt (R122, R159): after the START, no START and exactly 40 PULSEs. -/
def ProducerAttempt (P : Params) (p : Bool) (count : EventCount) (body : List Instr) : Prop :=
  Qualifies P p count ∧ (body.any isStart = false) ∧ (durationsOf body).length = 40

/-- A clean outcome (R132): the attempt ended OK and the producer kept the command protocol. -/
def CleanReading (a : Arch) : Prop := a.valid = true ∧ a.protoErr = false

end Sys2Proof.Machine
end

