-- ==== Sys2Proof/Certificates/Slice0/Obligations.lean ====
section
/-! DEFINITION. The statements for the provers, from the numbered rules of the spec. `{ s with … }` in a conclusion says
the whole next state: every field that it does not name is unchanged. The model's own fields (`inputs`, `lastRead`,
`draws`; log entries 2, 3, 5) stand in the statements as places only: `lastRead` is where the model puts `rdata`. -/

open Sys2Proof Sys2Proof.Machine

/-! ### Reset, power and the ports -/

/-- R150: a reset edge gives every element its reset value and discards the command, STATUS and the fields then read 0,
and a second reset edge changes nothing more. -/
def Obligations.ResetEdge : Prop :=
  ∀ (s : State) (v : Bool) (w : CommandWord) (rest : List PortEvent), s.inputs = .edge true v w :: rest →
    ∃ t, step s = .next t
      ∧ t = { s with
          launch := .live
          arch := { frame := 0#40, bitcnt := 0, phase := .idle, result := .none, protoErr := false }
          inputs := rest }
      ∧ (∀ rsel, t.rdata rsel = some 0x0000#16)
      ∧ (∃ port, t.resultPort = some port ∧ port.done = false ∧ port.valid = false)
      ∧ ∀ v' w' rest', rest = .edge true v' w' :: rest' → step t = .next { t with inputs := rest' }

/-- R20, R150: the state after reset, for every build (`State.reset` is the default build, R4). The value of `lastRead`
is the model's choice (log entry 3) and is not stated. -/
def Obligations.ResetState : Prop :=
  ∀ P : Params, (State.resetWith P).params = P
    ∧ (State.resetWith P).launch = .live
    ∧ (State.resetWith P).arch = { frame := 0#40, bitcnt := 0, phase := .idle, result := .none, protoErr := false }
    ∧ State.reset = State.resetWith { longRef := 70, tol := 5, minEvents := 42 }

/-- R151: before the first reset the ports have no value, and every command and every read is a fault. -/
def Obligations.BeforeFirstReset : Prop :=
  ∀ s : State, s.launch = .beforeReset →
    (∀ i, exec i s = .fault .beforeFirstReset)
      ∧ (∀ pw rest, s.inputs = presentWord pw :: rest → step s = .fault .beforeFirstReset)
      ∧ (∀ rsel, s.rdata rsel = none)
      ∧ s.resultPort = none

/-- R143, R151: after power is lost and comes back the core is before its first reset again, whatever it was; its build
is the same. That the loss of power is a port event is the model's choice, and the five elements are free values of
which nothing is said (log entry 5). -/
def Obligations.PowerUp : Prop :=
  ∀ (s : State) (rest : List PortEvent), s.inputs = .powerUp :: rest →
    ∃ t, step s = .next t ∧ t.launch = .beforeReset ∧ t.params = s.params ∧ t.inputs = rest
      ∧ (∀ rsel, t.rdata rsel = none) ∧ t.resultPort = none

/-- R143: with no event, no step of the core is taken and the whole state is kept. That the model's step can be taken
without an event is the model's choice (log entry 2). -/
def Obligations.NoEventKeepsState : Prop := ∀ s : State, s.inputs = [] → step s = .next s

/-- R154: at an edge with `rst = 0`, a valid command is decoded and run, and with `cmd_valid = 0` the state is
unchanged, in a live core exactly as for NOP. That an edge without a command also leaves a core before its first reset as
it is, is no rule of the spec but the model's inference (DEDUCED, log entry 4); that the event is then off the list is the
model's choice (log entry 2). -/
def Obligations.ClockEdge : Prop :=
  ∀ (s : State) (w : CommandWord) (rest : List PortEvent),
    (s.inputs = .edge false true w :: rest → step s = exec (decodeCommand w) { s with inputs := rest })
      ∧ (s.inputs = .edge false false w :: rest →
          step s = .next { s with inputs := rest }
            ∧ (s.launch = .live → step s = exec .nop { s with inputs := rest }))

/-- R154, R155: when the word on a port decodes to a well-formed instruction, the step is that instruction's, run in
the state with the event taken off. The list of events is the model's choice (log entry 2). -/
def Obligations.StepRunsDecodedInstruction : Prop :=
  ∀ (s : State) (pw : PortWord) (rest : List PortEvent) (i : Instr), s.inputs = presentWord pw :: rest →
    decode pw = i → i.wellFormed = true → step s = exec i { s with inputs := rest }

/-- A word of the opcode table that the decoder reads runs as the very next step. How a word is presented is the model's
choice (log entries 2 and 8). -/
def Obligations.TableWordRuns : Prop :=
  ∀ (s : State) (nbits w : Nat) (i : Instr), decodeTableWord nbits w = some i →
    step (s.withFetchWord nbits w) = exec i s

/-- R5: a step never changes the build's parameters. It also takes the next event off the list of those to come, and
none where the list is empty: that clause is no rule of the spec, whose ports have no list, but the model's choice (log
entry 2). -/
def Obligations.StepTakesOneEvent : Prop :=
  ∀ s t : State, step s = .next t → t.inputs = s.inputs.tail ∧ t.params = s.params

/-- R130, R156: in every reachable state every command and every read completes, whatever its operands. -/
def Obligations.EveryInstructionCompletes : Prop :=
  ∀ (i : Instr) (s : State), s.launch = .live → StateInv s → Completes (exec i s)

/-! ### Encodings -/

/-- 95_test_vectors.md section 2.6, and words written out from R56 to R63. -/
def Obligations.DecodeWords : Prop :=
  decode (.command 0b00000000000000000000000000000000#32) = .nop
    ∧ decode (.command 0b00010000000000010000000000101010#32) = .start true 42#16
    ∧ decode (.command 0b00010000000000000000000000000000#32) = .start false 0#16
    ∧ decode (.command 0b00100000000000000000000001000110#32) = .pulse 70#16
    ∧ decode (.command 0b00100000000000001111111111111111#32) = .pulse 65535#16
    ∧ decode (.command 0b00110000000000000000000000000000#32) = .rsvd3 0#28
    ∧ decode (.command 0b01010000000000000000000000000001#32) = .rsvd4to7 5#4 1#28
    ∧ decode (.command 0b11110000000000000000000000000000#32) = .rsvd8toF 15#4 0#28
    ∧ decode (.select 0b000#3) = .rdHum
    ∧ decode (.select 0b001#3) = .rdTemp
    ∧ decode (.select 0b010#3) = .rdChk
    ∧ decode (.select 0b011#3) = .rdStatus
    ∧ decode (.select 0b110#3) = .rdR4toR7 6#3

/-- R55 to R65: every well-formed instruction, with every operand at every value, is read back from its encoding. -/
def Obligations.DecodeEncode : Prop := ∀ i : Instr, i.wellFormed = true → decode (encode i) = i

/-- R59: `cmd[31:28]` alone selects the command, the operands are `cmd[16]` and `cmd[15:0]`, and every word is one of
the four commands. -/
def Obligations.DecodeByOpcode : Prop :=
  ∀ w : CommandWord,
    (w.toNat / 2 ^ 28 = 0 → decodeCommand w = .nop)
      ∧ (w.toNat / 2 ^ 28 = 1 → decodeCommand w = .start (w.toNat.testBit 16) (BitVec.ofNat 16 w.toNat))
      ∧ (w.toNat / 2 ^ 28 = 2 → decodeCommand w = .pulse (BitVec.ofNat 16 w.toNat))
      ∧ (3 ≤ w.toNat / 2 ^ 28 → isRsvd (decodeCommand w) = true)

/-- R61: a NOP, START or PULSE with reserved bits set does exactly what the same word with those bits cleared does. -/
def Obligations.ReservedBitsIgnored : Prop :=
  ∀ (s : State) (w : CommandWord) (rest : List PortEvent),
    (w.toNat / 2 ^ 28 = 0 →
      step { s with inputs := .edge false true w :: rest }
        = step { s with inputs := .edge false true (w &&& 0xF0000000#32) :: rest })
      ∧ (w.toNat / 2 ^ 28 = 1 →
        step { s with inputs := .edge false true w :: rest }
          = step { s with inputs := .edge false true (w &&& 0xF001FFFF#32) :: rest })
      ∧ (w.toNat / 2 ^ 28 = 2 →
        step { s with inputs := .edge false true w :: rest }
          = step { s with inputs := .edge false true (w &&& 0xF000FFFF#32) :: rest })

/-- The opcode table: each command word and each select matches exactly one row, and decodes to that row's
instruction. -/
def Obligations.OneRowForEachWord : Prop :=
  (∀ w : CommandWord, ∃ k, rowsMatching commandRows w = [k] ∧ commandRowOf (decode (.command w)) = some k)
    ∧ (∀ r : Select, ∃ k, rowsMatching selectRows r = [k] ∧ selectRowOf (decode (.select r)) = some k)

/-- R59, R63: decoding is total and gives only well-formed instructions; the words of the reserved opcodes and of the
selects are kept bit for bit. -/
def Obligations.DecodedIsWellFormed : Prop :=
  ∀ pw : PortWord, (decode pw).wellFormed = true
    ∧ (isRsvd (decode pw) = true ∨ isRead (decode pw) = true → encode (decode pw) = pw)

/-! ### The classifier, the accumulator and PULSE -/

/-- R75: the classifier is the inclusive band around `LONG_REF`, compared in unbounded integers; under the defaults it
is 65 to 75. -/
def Obligations.ClassifyBand : Prop :=
  (∀ (P : Params) (d : Duration), classify P d = true ↔
      (P.longRef.val : Int) - (P.tol.val : Int) ≤ (d.toNat : Int)
        ∧ (d.toNat : Int) ≤ (P.longRef.val : Int) + (P.tol.val : Int))
    ∧ ∀ d : Duration, classify Params.default d = true ↔ 65 ≤ d.toNat ∧ d.toNat ≤ 75

/-- R77: the frame moves up by one bit, the new bit is bit 0 and the old bit 39 is discarded. -/
def Obligations.ShiftIn : Prop :=
  ∀ (F : FrameWord) (b : Bool), (shiftIn F b).toNat = (2 * F.toNat + b.toNat) % 2 ^ 40

/-- R78: PULSE in ACCUM shifts and counts, its 40th also ends the attempt with the verdict over the completed frame,
and outside ACCUM it only sets PROTO_ERR. -/
def Obligations.PulseEffect : Prop :=
  ∀ (s : State) (dur : Duration), s.launch = .live →
    (s.arch.phase = .accum → s.arch.bitcnt.val ≤ 38 →
      ∃ n : Fin 41, n.val = s.arch.bitcnt.val + 1
        ∧ exec (.pulse dur) s = .next { s with
            arch := { s.arch with frame := shiftIn s.arch.frame (classify s.params dur), bitcnt := n } })
      ∧ (s.arch.phase = .accum → s.arch.bitcnt.val = 39 →
        exec (.pulse dur) s = .next { s with
          arch := {
            frame := shiftIn s.arch.frame (classify s.params dur)
            bitcnt := 40
            phase := .done
            result := if chkOk (shiftIn s.arch.frame (classify s.params dur)) then .ok else .checksumMismatch
            protoErr := s.arch.protoErr } })
      ∧ (s.arch.phase ≠ .accum →
        exec (.pulse dur) s = .next { s with arch := { s.arch with protoErr := true } })

/-- R35, U12: where ACCUM holds a count of 40, which no reachable state has, PULSE has no behaviour in the spec and the
model refuses it (the model's choice, log entry 6). -/
def Obligations.PulsePastForty : Prop :=
  ∀ (s : State) (dur : Duration), s.launch = .live → s.arch.phase = .accum → s.arch.bitcnt.val = 40 →
    exec (.pulse dur) s = .refused .countPastForty

/-- R79: after a qualifying START and exactly 40 PULSEs, with NOPs, reserved opcodes and reads among them, pulse i is
frame bit 39 - i. -/
def Obligations.FrameInCaptureOrder : Prop :=
  ∀ (s : State) (p : Bool) (count : EventCount) (body : List Instr), s.launch = .live →
    ProducerAttempt s.params p count body →
      ∃ t, execAll (.start p count :: body) s = .next t ∧ t.arch.phase = .done ∧ t.arch.bitcnt.val = 40
        ∧ ∀ (i : Nat) (h : i < (durationsOf body).length),
          t.arch.frame.getLsbD (39 - i) = classify s.params (durationsOf body)[i]

/-- R81, R26 (b): with fewer than 40 PULSEs the attempt stays open: ACCUM, NONE, no reading, and the frame holds the
bits taken so far. -/
def Obligations.ShortAttemptStaysOpen : Prop :=
  ∀ (s : State) (p : Bool) (count : EventCount) (body : List Instr), s.launch = .live →
    Qualifies s.params p count → body.any isStart = false → (durationsOf body).length ≤ 39 →
      ∃ t, execAll (.start p count :: body) s = .next t ∧ t.arch.phase = .accum ∧ t.arch.result = .none
        ∧ t.arch.bitcnt.val = (durationsOf body).length
        ∧ t.arch.frame.toNat < 2 ^ t.arch.bitcnt.val
        ∧ (∀ (j : Nat) (h : j < (durationsOf body).length),
          t.arch.frame.getLsbD (t.arch.bitcnt.val - 1 - j) = classify s.params (durationsOf body)[j])
        ∧ ∃ port, t.resultPort = some port ∧ port.valid = false

/-- R80: the frame and the result of an attempt depend only on its 40 PULSE operands and the build, not on earlier
attempts, earlier contents or PROTO_ERR. -/
def Obligations.AttemptsAreIndependent : Prop :=
  ∀ (s₁ s₂ : State) (p₁ p₂ : Bool) (c₁ c₂ : EventCount) (body₁ body₂ : List Instr),
    s₁.launch = .live → s₂.launch = .live → s₁.params = s₂.params →
    ProducerAttempt s₁.params p₁ c₁ body₁ → ProducerAttempt s₂.params p₂ c₂ body₂ →
    durationsOf body₁ = durationsOf body₂ →
      ∃ t₁ t₂, execAll (.start p₁ c₁ :: body₁) s₁ = .next t₁ ∧ execAll (.start p₂ c₂ :: body₂) s₂ = .next t₂
        ∧ t₁.arch.frame = t₂.arch.frame ∧ t₁.arch.result = t₂.arch.result
        ∧ t₁.arch.phase = t₂.arch.phase ∧ t₁.arch.bitcnt = t₂.arch.bitcnt

/-- R132, R25: at the end of a qualified attempt of 40 PULSEs, PROTO_ERR tells exactly whether a reserved opcode came
among them, whatever the flag was before; so the attempt is a clean reading exactly when the checksum holds and none
came. -/
def Obligations.CleanReadingAfterAttempt : Prop :=
  ∀ (s : State) (p : Bool) (count : EventCount) (body : List Instr), s.launch = .live →
    ProducerAttempt s.params p count body →
      ∃ t, execAll (.start p count :: body) s = .next t
        ∧ t.arch.protoErr = body.any isRsvd
        ∧ (CleanReading t.arch ↔ chkOk t.arch.frame = true ∧ body.any isRsvd = false)

/-! ### The checksum reducer -/

/-- R90: SUM is the sum of the four data bytes modulo 256, and the checksum byte does not enter it. -/
def Obligations.SumModulo256 : Prop :=
  ∀ F : FrameWord, (checksum F).toNat =
    (F.toNat / 2 ^ 32 + F.toNat / 2 ^ 24 % 256 + F.toNat / 2 ^ 16 % 256 + F.toNat / 2 ^ 8 % 256) % 256

/-- R91: CHK_OK holds exactly when the sum is the checksum byte. -/
def Obligations.CheckAgainstByteZero : Prop :=
  ∀ F : FrameWord, chkOk F = true ↔
    (F.toNat / 2 ^ 32 + F.toNat / 2 ^ 24 % 256 + F.toNat / 2 ^ 16 % 256 + F.toNat / 2 ^ 8 % 256) % 256 = F.toNat % 256

/-- R92: a verdict enters RESULT only by the 40th PULSE, over the frame that it completes; any other instruction that
leaves a verdict found it there, with the same frame. -/
def Obligations.VerdictOnFortiethPulse : Prop :=
  ∀ (i : Instr) (s t : State), exec i s = .next t → (t.arch.result = .ok ∨ t.arch.result = .checksumMismatch) →
    StateInv s →
      (t.arch.result = s.arch.result ∧ t.arch.frame = s.arch.frame)
        ∨ ((∃ dur, i = .pulse dur) ∧ s.arch.phase = .accum ∧ s.arch.bitcnt.val = 39
          ∧ (t.arch.result = .ok ↔ chkOk t.arch.frame = true))

/-- R94, R93: a mismatch writes its code and DONE as every 40th PULSE does, keeps the frame and PROTO_ERR, leaves the
raw reads and both sums readable, and the result port gates the fields to 0. -/
def Obligations.MismatchKeepsFrame : Prop :=
  ∀ (s : State) (dur : Duration), s.launch = .live → s.arch.phase = .accum → s.arch.bitcnt.val = 39 →
    chkOk (shiftIn s.arch.frame (classify s.params dur)) = false →
      ∃ t, exec (.pulse dur) s = .next t
        ∧ t.arch = {
            frame := shiftIn s.arch.frame (classify s.params dur)
            bitcnt := 40
            phase := .done
            result := .checksumMismatch
            protoErr := s.arch.protoErr }
        ∧ t.rdata 0#3 = some (hum t.arch.frame) ∧ t.rdata 1#3 = some (temp t.arch.frame)
        ∧ t.rdata 2#3 = some (checksum t.arch.frame ++ chkb t.arch.frame)
        ∧ ∃ port, t.resultPort = some port ∧ port.valid = false ∧ port.humidity = 0#16 ∧ port.temperature = 0#16

/-! ### The field-slice multiplexer and the result port -/

/-- R100: the three slices of the frame. -/
def Obligations.Slices : Prop :=
  ∀ F : FrameWord, (hum F).toNat = F.toNat / 2 ^ 24
    ∧ (temp F).toNat = F.toNat / 2 ^ 8 % 2 ^ 16
    ∧ (chkb F).toNat = F.toNat % 2 ^ 8

/-- R109: a frame put together from three fields gives them back on the raw reads, and on the result port exactly when
it is a verified reading. -/
def Obligations.SliceRoundTrip : Prop :=
  ∀ (a : Arch) (h t : BitVec 16) (c : BitVec 8), a.frame = h ++ t ++ c →
    hum a.frame = h ∧ temp a.frame = t ∧ chkb a.frame = c
      ∧ a.readPort 0#3 = h ∧ a.readPort 1#3 = t
      ∧ (a.Reachable → a.phase = .done → a.bitcnt.val = 40 →
        (chkOk a.frame = true → a.resultPort.humidity = h ∧ a.resultPort.temperature = t)
          ∧ (chkOk a.frame = false → a.resultPort.humidity = 0#16 ∧ a.resultPort.temperature = 0#16))

/-- R101: the read port's map, a function of the state, with which every read instruction agrees. -/
def Obligations.ReadPortMap : Prop :=
  ∀ (s : State) (rsel : Select), s.launch = .live →
    s.rdata rsel = some (s.arch.readPort rsel)
      ∧ exec (decode (.select rsel)) s = .next { s with lastRead := s.arch.readPort rsel }
      ∧ (rsel.toNat = 0 → s.arch.readPort rsel = hum s.arch.frame)
      ∧ (rsel.toNat = 1 → s.arch.readPort rsel = temp s.arch.frame)
      ∧ (rsel.toNat = 2 → s.arch.readPort rsel = checksum s.arch.frame ++ chkb s.arch.frame)
      ∧ (rsel.toNat = 3 → s.arch.readPort rsel = s.arch.statusWord)
      ∧ (4 ≤ rsel.toNat → s.arch.readPort rsel = 0x0000#16)

/-- R102: RD HUM gives `FRAME[39:24]` and writes no element; in IDLE and after a failed START it gives 0. -/
def Obligations.ReadHumidity : Prop :=
  ∀ s : State, s.launch = .live →
    ∃ w : ReadWord, w.toNat = s.arch.frame.toNat / 2 ^ 24
      ∧ exec .rdHum s = .next { s with lastRead := w }
      ∧ (s.arch.Reachable →
        s.arch.phase = .idle ∨ s.arch.result = .noResponse ∨ s.arch.result = .incompleteCapture → w = 0#16)

/-- R103: RD TEMP gives `FRAME[23:8]`, bit 15 being `FRAME[23]`, and writes no element. -/
def Obligations.ReadTemperature : Prop :=
  ∀ s : State, s.launch = .live →
    ∃ w : ReadWord, w.toNat = s.arch.frame.toNat / 2 ^ 8 % 2 ^ 16
      ∧ w.getLsbD 15 = s.arch.frame.getLsbD 23
      ∧ exec .rdTemp s = .next { s with lastRead := w }
      ∧ (s.arch.Reachable →
        s.arch.phase = .idle ∨ s.arch.result = .noResponse ∨ s.arch.result = .incompleteCapture → w = 0#16)

/-- R104: RD CHK gives the computed sum over the received checksum byte and writes no element; at the end of an attempt
the two are equal exactly when RESULT is OK, and in IDLE it gives 0. -/
def Obligations.ReadChecksums : Prop :=
  ∀ s : State, s.launch = .live →
    ∃ w : ReadWord, exec .rdChk s = .next { s with lastRead := w }
      ∧ w.toNat / 2 ^ 8 = (checksum s.arch.frame).toNat
      ∧ w.toNat % 2 ^ 8 = s.arch.frame.toNat % 2 ^ 8
      ∧ (s.arch.Reachable → s.arch.phase = .done → s.arch.bitcnt.val = 40 →
        (w.toNat / 2 ^ 8 = w.toNat % 2 ^ 8 ↔ s.arch.result = .ok))
      ∧ (s.arch.Reachable → s.arch.phase = .idle → w = 0#16)

/-- R105: RD STATUS gives the STATUS word and writes no element; bits [15:13] are 0, and VALID is 1 only in DONE with
OK. -/
def Obligations.ReadStatus : Prop :=
  ∀ s : State, s.launch = .live →
    ∃ w : ReadWord, exec .rdStatus s = .next { s with lastRead := w }
      ∧ w = 0b000#3 ++ BitVec.ofBool s.arch.valid ++ BitVec.ofBool s.arch.protoErr ++ resultCode s.arch.result
        ++ phaseCode s.arch.phase ++ BitVec.ofNat 6 s.arch.bitcnt.val
      ∧ w.toNat < 2 ^ 13
      ∧ (w.getLsbD 12 = true ↔ s.arch.phase = .done ∧ s.arch.result = .ok)
      ∧ (s.arch = Arch.reset → w = 0x0000#16)

/-- R106: RD R4 to RD R7 give 0 in every state and write no element. -/
def Obligations.ReadReserved : Prop :=
  ∀ (s : State) (rsel : Select), s.launch = .live → exec (.rdR4toR7 rsel) s = .next { s with lastRead := 0x0000#16 }

/-- R33: the fields of STATUS, and its value after reset. -/
def Obligations.StatusFields : Prop :=
  (∀ a : Arch, a.statusWord.toNat % 2 ^ 6 = a.bitcnt.val
      ∧ a.statusWord.toNat / 2 ^ 6 % 2 ^ 2 = (phaseCode a.phase).toNat
      ∧ a.statusWord.toNat / 2 ^ 8 % 2 ^ 3 = (resultCode a.result).toNat
      ∧ a.statusWord.getLsbD 11 = a.protoErr
      ∧ a.statusWord.getLsbD 12 = a.valid
      ∧ a.statusWord.toNat / 2 ^ 13 = 0)
    ∧ Arch.reset.statusWord = 0x0000#16

/-- R23, R24: the codes of PHASE and RESULT. -/
def Obligations.PhaseAndResultCodes : Prop :=
  phaseCode .idle = 0b00#2 ∧ phaseCode .accum = 0b01#2 ∧ phaseCode .done = 0b10#2
    ∧ resultCode .none = 0b000#3 ∧ resultCode .ok = 0b001#3 ∧ resultCode .noResponse = 0b010#3
    ∧ resultCode .incompleteCapture = 0b011#3 ∧ resultCode .checksumMismatch = 0b100#3

/-- R48: a read leaves the core's state and can be repeated with the same result. That the word it gives is kept in
`lastRead` is the model's choice (log entry 3). -/
def Obligations.ReadsHaveNoEffect : Prop :=
  ∀ (i : Instr) (s : State), isRead i = true → s.launch = .live →
    ∃ t, exec i s = .next t ∧ t.arch = s.arch ∧ t = { s with lastRead := t.lastRead } ∧ exec i t = .next t

/-- R107: the outputs of the result port. -/
def Obligations.ResultPortOutputs : Prop :=
  ∀ s : State, s.launch = .live →
    ∃ port, s.resultPort = some port
      ∧ (port.done = true ↔ s.arch.phase = .done)
      ∧ port.code = resultCode s.arch.result
      ∧ (port.valid = true ↔ s.arch.phase = .done ∧ s.arch.result = .ok)
      ∧ port.humidity = (if port.valid then hum s.arch.frame else 0x0000#16)
      ∧ port.temperature = (if port.valid then temp s.arch.frame else 0x0000#16)

/-- R107, R130, section 7 of the source: no partial frame is ever shown as if valid. In every reachable state a valid
reading is a complete frame that passed the checksum, and without one the fields are 0. -/
def Obligations.NoPartialFrameShown : Prop :=
  ∀ (s : State) (port : ResultPort), StateInv s → s.resultPort = some port →
    (port.valid = true → port.done = true ∧ s.arch.bitcnt.val = 40 ∧ chkOk s.arch.frame = true
        ∧ port.humidity.toNat = s.arch.frame.toNat / 2 ^ 24
        ∧ port.temperature.toNat = s.arch.frame.toNat / 2 ^ 8 % 2 ^ 16)
      ∧ (port.valid = false → port.humidity = 0#16 ∧ port.temperature = 0#16)

/-! ### START, NOP and the reserved opcodes -/

/-- R115: START writes all five elements, the absent buffer being checked before the count. -/
def Obligations.StartEffect : Prop :=
  ∀ (s : State) (p : Bool) (count : EventCount), s.launch = .live →
    (p = false → exec (.start p count) s = .next { s with
        arch := { frame := 0#40, bitcnt := 0, phase := .done, result := .noResponse, protoErr := false } })
      ∧ (p = true → count.toNat < s.params.minEvents.val → exec (.start p count) s = .next { s with
        arch := { frame := 0#40, bitcnt := 0, phase := .done, result := .incompleteCapture, protoErr := false } })
      ∧ (p = true → s.params.minEvents.val ≤ count.toNat → exec (.start p count) s = .next { s with
        arch := { frame := 0#40, bitcnt := 0, phase := .accum, result := .none, protoErr := false } })

/-- R116: NOP changes nothing, in every phase. -/
def Obligations.NopEffect : Prop := ∀ s : State, s.launch = .live → exec .nop s = .next s

/-- R117: a reserved opcode sets PROTO_ERR and changes nothing else, whatever its opcode and its low 28 bits. -/
def Obligations.ReservedOpcodeEffect : Prop :=
  ∀ (i : Instr) (s : State), isRsvd i = true → s.launch = .live →
    exec i s = .next { s with arch := { s.arch with protoErr := true } }

/-- R118: how an instruction moves the phase, from every reachable state. -/
def Obligations.PhaseMoves : Prop :=
  ∀ (i : Instr) (s t : State), StateInv s → exec i s = .next t →
    (t.arch.phase = .idle ↔ s.arch.phase = .idle ∧ isStart i = false)
      ∧ (t.arch.phase = .accum ↔
        (∃ count : EventCount, i = .start true count ∧ s.params.minEvents.val ≤ count.toNat)
          ∨ (s.arch.phase = .accum ∧ isStart i = false ∧ ¬ ((∃ dur, i = .pulse dur) ∧ s.arch.bitcnt.val = 39)))
      ∧ (t.arch.phase = .done ↔
        (∃ count : EventCount, i = .start false count)
          ∨ (∃ count : EventCount, i = .start true count ∧ count.toNat < s.params.minEvents.val)
          ∨ (s.arch.phase = .accum ∧ (∃ dur, i = .pulse dur) ∧ s.arch.bitcnt.val = 39)
          ∨ (s.arch.phase = .done ∧ isStart i = false))

/-- R119, R21, R134: DONE is terminal within an attempt. A step from DONE keeps PHASE, FRAME, BITCNT and RESULT unless
it is a reset, a START or the loss of power (a port event by the model's choice, log entry 5). -/
def Obligations.DoneIsTerminal : Prop :=
  ∀ s t : State, s.launch = .live → s.arch.phase = .done → step s = .next t →
    (t.arch.phase = .done ∧ t.arch.frame = s.arch.frame ∧ t.arch.bitcnt = s.arch.bitcnt
        ∧ t.arch.result = s.arch.result)
      ∨ (∃ v w, s.inputs.head? = some (.edge true v w))
      ∨ (∃ w, s.inputs.head? = some (.edge false true w) ∧ isStart (decodeCommand w) = true)
      ∨ s.inputs.head? = some .powerUp

/-- R25: PROTO_ERR is sticky. Of the instructions, exactly a PULSE outside ACCUM and a reserved opcode set it and
exactly START clears it, and setting it changes nothing else. -/
def Obligations.ProtocolErrorIsSticky : Prop :=
  ∀ (i : Instr) (s t : State), exec i s = .next t →
    (t.arch.protoErr = true ↔
      isStart i = false
        ∧ (s.arch.protoErr = true ∨ isRsvd i = true ∨ ((∃ dur, i = .pulse dur) ∧ s.arch.phase ≠ .accum)))
      ∧ (s.arch.protoErr = false → t.arch.protoErr = true → t.arch = { s.arch with protoErr := true })

/-- R133 item 2, R131: a failed START precludes decoding. Whatever follows without a START, the attempt keeps its
failure code and an empty frame, and a PULSE or a reserved opcode only sets PROTO_ERR. -/
def Obligations.FailedStartPrecludesDecoding : Prop :=
  ∀ (s : State) (p : Bool) (count : EventCount) (body : List Instr), s.launch = .live →
    ¬ Qualifies s.params p count → body.any isStart = false →
      ∃ t, execAll (.start p count :: body) s = .next t
        ∧ t.arch = {
            frame := 0#40
            bitcnt := 0
            phase := .done
            result := if p then .incompleteCapture else .noResponse
            protoErr := body.any isRsvd || !(durationsOf body).isEmpty }

/-- R131, R134: RESULT changes only by the causes of the table, in the step of the command that causes it. -/
def Obligations.OutcomeCauses : Prop :=
  ∀ (i : Instr) (s t : State), StateInv s → exec i s = .next t → t.arch.result ≠ s.arch.result →
    (t.arch.result = .none →
        ∃ count : EventCount, i = .start true count ∧ s.params.minEvents.val ≤ count.toNat)
      ∧ (t.arch.result = .noResponse →
        (∃ count : EventCount, i = .start false count) ∧ t.arch.frame = 0 ∧ t.arch.bitcnt.val = 0)
      ∧ (t.arch.result = .incompleteCapture →
        (∃ count : EventCount, i = .start true count ∧ count.toNat < s.params.minEvents.val)
          ∧ t.arch.frame = 0 ∧ t.arch.bitcnt.val = 0)
      ∧ (t.arch.result = .ok → (∃ dur, i = .pulse dur) ∧ t.arch.bitcnt.val = 40 ∧ chkOk t.arch.frame = true)
      ∧ (t.arch.result = .checksumMismatch →
        (∃ dur, i = .pulse dur) ∧ t.arch.bitcnt.val = 40 ∧ chkOk t.arch.frame = false)

/-- R135: `res_done` is a level. While the core stays powered, only a reset or a qualifying START takes it from 1 to 0;
a START that fails leaves it at 1. -/
def Obligations.ResDoneIsALevel : Prop :=
  ∀ (s t : State) (before after : ResultPort), step s = .next t → s.resultPort = some before →
    t.resultPort = some after → before.done = true → after.done = false →
      (∃ v w, s.inputs.head? = some (.edge true v w))
        ∨ (∃ (w : CommandWord) (count : EventCount), s.inputs.head? = some (.edge false true w)
          ∧ decodeCommand w = .start true count ∧ s.params.minEvents.val ≤ count.toNat)

/-! ### Invariants and frames -/

/-- R26: every step keeps the invariant of reachable states, from every state that has it. -/
def Obligations.StepKeepsInvariant : Prop := ∀ s t : State, StateInv s → step s = .next t → StateInv t

/-- R26: the state after reset has the invariant, for every build. -/
def Obligations.ResetHasInvariant : Prop := ∀ P : Params, StateInv (State.resetWith P)

/-- The frame of every instruction: the build, the launch and the coming events stay (log entries 2, 4 and 5 are the
model's places for them); the consumer's word changes only by a read (the model's choice, log entry 3); NOP and the reads keep all five elements, a reserved opcode and a PULSE outside ACCUM all but PROTO_ERR, and a
PULSE in ACCUM keeps PROTO_ERR. -/
def Obligations.InstructionFrame : Prop :=
  ∀ (i : Instr) (s t : State), exec i s = .next t →
    t.params = s.params ∧ t.launch = s.launch ∧ t.inputs = s.inputs ∧ t.draws = s.draws
      ∧ (isRead i = false → t.lastRead = s.lastRead)
      ∧ (isRead i = true ∨ i = .nop → t.arch = s.arch)
      ∧ (isRsvd i = true ∨ ((∃ dur, i = .pulse dur) ∧ s.arch.phase ≠ .accum) →
        t.arch.frame = s.arch.frame ∧ t.arch.bitcnt = s.arch.bitcnt ∧ t.arch.phase = s.arch.phase
          ∧ t.arch.result = s.arch.result)
      ∧ ((∃ dur, i = .pulse dur) ∧ s.arch.phase = .accum → t.arch.protoErr = s.arch.protoErr)

/-! ### The producer and the assembler -/

/-- R60: "A saturated count still qualifies, as the true count would", for every build. -/
def Obligations.SaturatedCount : Prop :=
  ∀ (P : Params) (n : Nat), countQualifies P (saturate16 n) = true ↔ P.minEvents.val ≤ n

/-- R82: with `LONG_REF + TOL < 65535` a saturated duration classifies 0, and the true duration lies above the band
too. -/
def Obligations.SaturatedDuration : Prop :=
  ∀ (P : Params) (n : Nat), P.longRef.val + P.tol.val < 65535 → 65535 < n →
    classify P (saturate16 n) = false ∧ P.longRef.val + P.tol.val < n

/-- R65: the words that the assembler gives, and that it rejects any operand outside its range. -/
def Obligations.AssemblerWords : Prop :=
  ∀ (P : Params) (x y : Nat),
    assembleLine P .nop = .ok [.command 0x00000000#32]
      ∧ assembleLine P (.start x y) =
        (if x ≤ 1 ∧ y ≤ 65535 then .ok [.command (BitVec.ofNat 32 (0x10000000 + x * 2 ^ 16 + y))]
          else .error .operandOutOfRange)
      ∧ assembleLine P (.pulse x) =
        (if x ≤ 65535 then .ok [.command (BitVec.ofNat 32 (0x20000000 + x))] else .error .operandOutOfRange)
      ∧ assembleLine P (.rsvd x y) =
        (if 3 ≤ x ∧ x ≤ 15 ∧ y < 2 ^ 28 then .ok [.command (BitVec.ofNat 32 (x * 2 ^ 28 + y))]
          else .error .operandOutOfRange)
      ∧ assembleLine P (.rd x) =
        (if x ≤ 7 then .ok [.select (BitVec.ofNat 3 x)] else .error .operandOutOfRange)

/-- R66: what the pseudo-commands stand for. In every build BIT0 is PULSE 25, BIT1 is PULSE LONG_REF and classifies 1,
ABSENT is START 0, 0, and BEGIN is START 1, MIN_EVENTS and qualifies; FRAMEBITS v is 40 lines, BIT1 where `v[39-i]` is 1
and else BIT0, and a v of more than 40 bits is rejected. In the default build BIT0 classifies 0, and BIT1 and BEGIN have
the words of the table. -/
def Obligations.PseudoCommands : Prop :=
  (∀ P : Params, ∃ d c : BitVec 16,
      assembleLine P .bit0 = .ok [asmBit0] ∧ asmBit0 = .command 0x20000019#32 ∧ decode asmBit0 = .pulse 25#16
        ∧ assembleLine P .bit1 = .ok [asmBit1 P] ∧ decode (asmBit1 P) = .pulse d ∧ d.toNat = P.longRef.val
        ∧ classify P d = true
        ∧ assembleLine P .absent = .ok [.command 0x10000000#32] ∧ decode (.command 0x10000000#32) = .start false 0#16
        ∧ assembleLine P .beginCapture = .ok [encode (.start true c)] ∧ c.toNat = P.minEvents.val
        ∧ Qualifies P true c)
    ∧ (∀ (P : Params) (v : Nat),
      (v < 2 ^ 40 → ∃ bits, assembleLine P (.frameBits v) = .ok bits ∧ bits.length = 40
        ∧ ∀ (i : Nat) (h : i < bits.length), bits[i] = if v.testBit (39 - i) then asmBit1 P else asmBit0)
        ∧ (2 ^ 40 ≤ v → assembleLine P (.frameBits v) = .error .operandOutOfRange))
    ∧ classify Params.default 25#16 = false
    ∧ asmBit1 Params.default = .command 0x20000046#32
    ∧ assembleLine Params.default .beginCapture = .ok [.command 0x1001002A#32]

/-- R66, R43: in a build whose band does not hold 25, BEGIN and FRAMEBITS v from any live state end the attempt with
the frame v. -/
def Obligations.FrameBitsSendsTheFrame : Prop :=
  ∀ (s : State) (v : Nat) (start bits : List PortWord), s.launch = .live → v < 2 ^ 40 →
    classify s.params 25#16 = false →
    assembleLine s.params .beginCapture = .ok start → assembleLine s.params (.frameBits v) = .ok bits →
      ∃ t, execAll ((start ++ bits).map decode) s = .next t ∧ t.arch.phase = .done ∧ t.arch.frame = BitVec.ofNat 40 v
end

