-- ==== Sys2Proof/Laws/Decode.lean ====
section
/-! SUPPORT. The fields of a command word put together and taken apart, and the rows that a word matches. -/

namespace Sys2Proof

/-- A word of an opcode and 28 bits below it. -/
def wordOf (opc : BitVec 4) (imm28 : BitVec 28) : CommandWord := opc ++ imm28

/-- Every word is its opcode and its low 28 bits. -/
theorem wordOf_fields (w : CommandWord) : wordOf (opcField w) (imm28Field w) = w := by
  apply BitVec.eq_of_toNat_eq
  simp only [wordOf, opcField, imm28Field, BitVec.toNat_append, BitVec.extractLsb'_toNat, Nat.shiftRight_zero]
  rw [Nat.shiftLeft_eq, Nat.mul_comm, ← Nat.two_pow_add_eq_or_of_lt (Nat.mod_lt _ (by decide))]
  have := w.isLt
  omega

@[simp] theorem opcField_wordOf (opc : BitVec 4) (imm28 : BitVec 28) : opcField (wordOf opc imm28) = opc := by
  apply BitVec.eq_of_toNat_eq
  simp only [wordOf, opcField, BitVec.toNat_append, BitVec.extractLsb'_toNat]
  rw [Nat.shiftLeft_eq, Nat.mul_comm, ← Nat.two_pow_add_eq_or_of_lt imm28.isLt]
  have := opc.isLt
  have := imm28.isLt
  omega

@[simp] theorem imm28Field_wordOf (opc : BitVec 4) (imm28 : BitVec 28) : imm28Field (wordOf opc imm28) = imm28 := by
  apply BitVec.eq_of_toNat_eq
  simp only [wordOf, imm28Field, BitVec.toNat_append, BitVec.extractLsb'_toNat, Nat.shiftRight_zero]
  rw [Nat.shiftLeft_eq, Nat.mul_comm, ← Nat.two_pow_add_eq_or_of_lt imm28.isLt]
  have := imm28.isLt
  omega

/-- START's word is its opcode over 28 bits: eleven zeros, `P`, `COUNT` (R57). -/
theorem formatS_eq_wordOf (p : Bool) (count : EventCount) :
    formatS p count = wordOf 0x1#4 (0#11 ++ BitVec.ofBool p ++ count) := by
  apply BitVec.eq_of_toNat_eq
  simp only [formatS, wordOf, BitVec.toNat_append, Nat.shiftLeft_or_distrib, ← Nat.shiftLeft_add, Nat.or_assoc]

/-- PULSE's word is its opcode over 28 bits: twelve zeros and `DUR` (R58). -/
theorem formatP_eq_wordOf (dur : Duration) : formatP dur = wordOf 0x2#4 (0#12 ++ dur) := by
  apply BitVec.eq_of_toNat_eq
  simp only [formatP, wordOf, BitVec.toNat_append, Nat.shiftLeft_or_distrib, ← Nat.shiftLeft_add, Nat.or_assoc]

/-- A mask of opcode bits only sees the opcode. -/
theorem wordOf_and_eq_iff (opc mask pattern : BitVec 4) (imm28 : BitVec 28) :
    wordOf opc imm28 &&& wordOf mask 0#28 = wordOf pattern 0#28 ↔ opc &&& mask = pattern := by
  constructor
  · intro h
    have := congrArg opcField h
    rwa [wordOf, wordOf, BitVec.and_append, ← wordOf, opcField_wordOf, opcField_wordOf] at this
  · intro h
    rw [wordOf, wordOf, BitVec.and_append, h, BitVec.and_zero, ← wordOf]

/-- The command rows as seen by the opcode alone. -/
def opcodeRows : List (BitVec 4 × BitVec 4) :=
  [(0xF#4, 0x0#4), (0xF#4, 0x1#4), (0xF#4, 0x2#4), (0xF#4, 0x3#4), (0xC#4, 0x4#4), (0x8#4, 0x8#4)]

/-- The rows that a word matches are those of its opcode. -/
theorem rowsMatching_wordOf (opc : BitVec 4) (imm28 : BitVec 28) :
    rowsMatching commandRows (wordOf opc imm28) = rowsMatching opcodeRows opc := by
  have key := fun m p => wordOf_and_eq_iff opc m p imm28
  have hF : 0xF0000000#32 = wordOf 0xF#4 0#28 := by decide
  have hC : 0xC0000000#32 = wordOf 0xC#4 0#28 := by decide
  have h8 : 0x80000000#32 = wordOf 0x8#4 0#28 := by decide
  have p0 : 0x00000000#32 = wordOf 0x0#4 0#28 := by decide
  have p1 : 0x10000000#32 = wordOf 0x1#4 0#28 := by decide
  have p2 : 0x20000000#32 = wordOf 0x2#4 0#28 := by decide
  have p3 : 0x30000000#32 = wordOf 0x3#4 0#28 := by decide
  have p4 : 0x40000000#32 = wordOf 0x4#4 0#28 := by decide
  have rows : commandRows = opcodeRows.map fun r => (wordOf r.1 0#28, wordOf r.2 0#28) := by
    simp only [commandRows, opcodeRows, List.map, hF, hC, h8, p0, p1, p2, p3, p4]
  rw [rows]
  unfold rowsMatching
  simp only [List.length_map]
  apply List.filter_congr
  intro k _
  rw [List.getElem?_map]
  cases opcodeRows[k]? with
  | none => rfl
  | some r => simp [key]

/-- Each opcode stands in one row. -/
theorem rowsMatching_opcode :
    ∀ opc : BitVec 4, rowsMatching opcodeRows opc =
      [if opc.toNat ≤ 3 then opc.toNat else if opc.toNat ≤ 7 then 4 else 5] := by
  decide

/-- Each select stands in one row. -/
theorem rowsMatching_select :
    ∀ r : Select, rowsMatching selectRows r = [if r.toNat ≤ 3 then r.toNat else 4] := by
  decide

end Sys2Proof
end

