-- ==== Sys2Proof/Laws/State.lean ====
section
/-! SUPPORT. One lemma for each field and each update of the state and of its five elements. -/

namespace Sys2Proof.Machine

variable (s : State) (a : Arch)

/-! ### s.setArch a -/

@[simp] theorem State.setArch_params : (s.setArch a).params = s.params := rfl
@[simp] theorem State.setArch_launch : (s.setArch a).launch = s.launch := rfl
@[simp] theorem State.setArch_arch : (s.setArch a).arch = a := rfl
@[simp] theorem State.setArch_inputs : (s.setArch a).inputs = s.inputs := rfl
@[simp] theorem State.setArch_lastRead : (s.setArch a).lastRead = s.lastRead := rfl
@[simp] theorem State.setArch_draws : (s.setArch a).draws = s.draws := rfl

/-! ### s.setLastRead w -/

@[simp] theorem State.setLastRead_params (w : ReadWord) : (s.setLastRead w).params = s.params := rfl
@[simp] theorem State.setLastRead_launch (w : ReadWord) : (s.setLastRead w).launch = s.launch := rfl
@[simp] theorem State.setLastRead_arch (w : ReadWord) : (s.setLastRead w).arch = s.arch := rfl
@[simp] theorem State.setLastRead_inputs (w : ReadWord) : (s.setLastRead w).inputs = s.inputs := rfl
@[simp] theorem State.setLastRead_lastRead (w : ReadWord) : (s.setLastRead w).lastRead = w := rfl
@[simp] theorem State.setLastRead_draws (w : ReadWord) : (s.setLastRead w).draws = s.draws := rfl

/-! ### s.setInputs es -/

@[simp] theorem State.setInputs_params (es : List PortEvent) : (s.setInputs es).params = s.params := rfl
@[simp] theorem State.setInputs_launch (es : List PortEvent) : (s.setInputs es).launch = s.launch := rfl
@[simp] theorem State.setInputs_arch (es : List PortEvent) : (s.setInputs es).arch = s.arch := rfl
@[simp] theorem State.setInputs_inputs (es : List PortEvent) : (s.setInputs es).inputs = es := rfl
@[simp] theorem State.setInputs_lastRead (es : List PortEvent) : (s.setInputs es).lastRead = s.lastRead := rfl
@[simp] theorem State.setInputs_draws (es : List PortEvent) : (s.setInputs es).draws = s.draws := rfl

/-! ### s.present pw -/

@[simp] theorem State.present_params (pw : PortWord) : (s.present pw).params = s.params := rfl
@[simp] theorem State.present_launch (pw : PortWord) : (s.present pw).launch = s.launch := rfl
@[simp] theorem State.present_arch (pw : PortWord) : (s.present pw).arch = s.arch := rfl
@[simp] theorem State.present_inputs (pw : PortWord) : (s.present pw).inputs = presentWord pw :: s.inputs := rfl
@[simp] theorem State.present_lastRead (pw : PortWord) : (s.present pw).lastRead = s.lastRead := rfl
@[simp] theorem State.present_draws (pw : PortWord) : (s.present pw).draws = s.draws := rfl

/-! ### resetCore s -/

@[simp] theorem resetCore_params : (resetCore s).params = s.params := rfl
@[simp] theorem resetCore_launch : (resetCore s).launch = .live := rfl
@[simp] theorem resetCore_arch : (resetCore s).arch = Arch.reset := rfl
@[simp] theorem resetCore_inputs : (resetCore s).inputs = s.inputs := rfl
@[simp] theorem resetCore_lastRead : (resetCore s).lastRead = s.lastRead := rfl
@[simp] theorem resetCore_draws : (resetCore s).draws = s.draws := rfl

/-! ### powerUpCore s: its contents are free values, and only their names are known -/

@[simp] theorem powerUpCore_params : (powerUpCore s).params = s.params := rfl
@[simp] theorem powerUpCore_launch : (powerUpCore s).launch = .beforeReset := rfl
@[simp] theorem powerUpCore_inputs : (powerUpCore s).inputs = s.inputs := rfl
@[simp] theorem powerUpCore_lastRead : (powerUpCore s).lastRead = s.lastRead := rfl
@[simp] theorem powerUpCore_draws : (powerUpCore s).draws = s.draws + 1 := rfl

/-! ### a.setProtoErr -/

@[simp] theorem Arch.setProtoErr_frame : (a.setProtoErr).frame = a.frame := rfl
@[simp] theorem Arch.setProtoErr_bitcnt : (a.setProtoErr).bitcnt = a.bitcnt := rfl
@[simp] theorem Arch.setProtoErr_phase : (a.setProtoErr).phase = a.phase := rfl
@[simp] theorem Arch.setProtoErr_result : (a.setProtoErr).result = a.result := rfl
@[simp] theorem Arch.setProtoErr_protoErr : (a.setProtoErr).protoErr = true := rfl

/-! ### a.enterDone r -/

@[simp] theorem Arch.enterDone_frame (r : ResultCode) : (a.enterDone r).frame = a.frame := rfl
@[simp] theorem Arch.enterDone_bitcnt (r : ResultCode) : (a.enterDone r).bitcnt = a.bitcnt := rfl
@[simp] theorem Arch.enterDone_phase (r : ResultCode) : (a.enterDone r).phase = .done := rfl
@[simp] theorem Arch.enterDone_result (r : ResultCode) : (a.enterDone r).result = r := rfl
@[simp] theorem Arch.enterDone_protoErr (r : ResultCode) : (a.enterDone r).protoErr = a.protoErr := rfl

/-! ### a.cleared -/

@[simp] theorem Arch.cleared_frame : (a.cleared).frame = 0x0#40 := rfl
@[simp] theorem Arch.cleared_bitcnt : (a.cleared).bitcnt = 0 := rfl
@[simp] theorem Arch.cleared_phase : (a.cleared).phase = a.phase := rfl
@[simp] theorem Arch.cleared_result : (a.cleared).result = a.result := rfl
@[simp] theorem Arch.cleared_protoErr : (a.cleared).protoErr = false := rfl

/-! ### a.openAttempt -/

@[simp] theorem Arch.openAttempt_frame : (a.openAttempt).frame = a.frame := rfl
@[simp] theorem Arch.openAttempt_bitcnt : (a.openAttempt).bitcnt = a.bitcnt := rfl
@[simp] theorem Arch.openAttempt_phase : (a.openAttempt).phase = .accum := rfl
@[simp] theorem Arch.openAttempt_result : (a.openAttempt).result = .none := rfl
@[simp] theorem Arch.openAttempt_protoErr : (a.openAttempt).protoErr = a.protoErr := rfl

/-! ### Arch.reset -/

@[simp] theorem Arch.reset_frame : Arch.reset.frame = 0x0#40 := rfl
@[simp] theorem Arch.reset_bitcnt : Arch.reset.bitcnt = 0 := rfl
@[simp] theorem Arch.reset_phase : Arch.reset.phase = .idle := rfl
@[simp] theorem Arch.reset_result : Arch.reset.result = .none := rfl
@[simp] theorem Arch.reset_protoErr : Arch.reset.protoErr = false := rfl

/-- Writing the elements twice keeps the second. -/
@[simp] theorem State.setArch_setArch (b : Arch) : (s.setArch a).setArch b = s.setArch b := rfl

/-- Writing back what the state has changes nothing. -/
@[simp] theorem State.setArch_self : s.setArch s.arch = s := rfl

end Sys2Proof.Machine
end

