-- ==== Sys2Proof/Laws/Ops.lean ====
section
/-! SUPPORT. What each shared operation can do, said once. -/

namespace Sys2Proof.Machine

/-! ### ifLive -/

@[simp] theorem ifLive_live {s : State} (h : s.launch = .live) (o : StepOutcome) : ifLive s o = o := by
  simp [ifLive, h]

@[simp] theorem ifLive_beforeReset {s : State} (h : s.launch = .beforeReset) (o : StepOutcome) :
    ifLive s o = .fault .beforeFirstReset := by
  simp [ifLive, h]

/-- An operation that answers a next state ran after the first reset. -/
theorem ifLive_next {s t : State} {o : StepOutcome} (h : ifLive s o = .next t) : s.launch = .live ∧ o = .next t := by
  cases hl : s.launch with
  | live => exact ⟨rfl, by simpa [hl] using h⟩
  | beforeReset => simp [hl] at h

/-! ### flagProtocolError and giveRead: each has one next state -/

theorem flagProtocolError_next {s t : State} : flagProtocolError s = .next t ↔ t = s.setArch s.arch.setProtoErr := by
  simp [flagProtocolError, eq_comm]

theorem giveRead_next {s t : State} {w : ReadWord} : giveRead s w = .next t ↔ t = s.setLastRead w := by
  simp [giveRead, eq_comm]

/-! ### nextCount -/

theorem nextCount_below {n : Fin 41} (h : n.val ≤ 39) : nextCount n = some ⟨n.val + 1, by omega⟩ := by
  simp only [nextCount, show n.val + 1 < 41 by omega, dite_true]

theorem nextCount_full {n : Fin 41} (h : n.val = 40) : nextCount n = none := by
  simp [nextCount, h]

/-! ### accumulate -/

/-- All that one pulse in ACCUM can do: it counts to 39 at most, it completes the frame, or there is no count left. -/
theorem accumulate_cases (P : Params) (dur : Duration) (a : Arch) :
    (∃ h : a.bitcnt.val < 39, accumulate P dur a =
      some { a with frame := shiftIn a.frame (classify P dur), bitcnt := ⟨a.bitcnt.val + 1, by omega⟩ })
    ∨ (a.bitcnt.val = 39 ∧ accumulate P dur a =
      some { frame := shiftIn a.frame (classify P dur), bitcnt := 40, phase := .done,
             result := verdict (shiftIn a.frame (classify P dur)), protoErr := a.protoErr })
    ∨ (a.bitcnt.val = 40 ∧ accumulate P dur a = none) := by
  rcases Nat.lt_trichotomy a.bitcnt.val 39 with h | h | h
  · refine .inl ⟨h, ?_⟩
    have hne : a.bitcnt.val + 1 ≠ 40 := by omega
    simp [accumulate, nextCount_below (Nat.le_of_lt h), hne]
  · refine .inr (.inl ⟨h, ?_⟩)
    simp [accumulate, nextCount_below (Nat.le_of_eq h), h, Arch.enterDone]
  · have h40 : a.bitcnt.val = 40 := by omega
    exact .inr (.inr ⟨h40, by simp [accumulate, nextCount_full h40]⟩)

/-! ### startAttempt -/

theorem startAttempt_absent (P : Params) (count : EventCount) (a : Arch) :
    startAttempt P false count a = a.cleared.enterDone .noResponse := by
  simp [startAttempt]

theorem startAttempt_short {P : Params} {count : EventCount} (h : count.toNat < P.minEvents.val) (a : Arch) :
    startAttempt P true count a = a.cleared.enterDone .incompleteCapture := by
  have h' : ¬ P.minEvents.val ≤ count.toNat := by omega
  simp [startAttempt, countQualifies, h']

theorem startAttempt_qualifies {P : Params} {count : EventCount} (h : P.minEvents.val ≤ count.toNat) (a : Arch) :
    startAttempt P true count a = a.cleared.openAttempt := by
  simp [startAttempt, countQualifies, h]

/-- All that START can leave. -/
theorem startAttempt_cases (P : Params) (p : Bool) (count : EventCount) (a : Arch) :
    (p = false ∧ startAttempt P p count a = a.cleared.enterDone .noResponse)
    ∨ (p = true ∧ count.toNat < P.minEvents.val ∧ startAttempt P p count a = a.cleared.enterDone .incompleteCapture)
    ∨ (p = true ∧ P.minEvents.val ≤ count.toNat ∧ startAttempt P p count a = a.cleared.openAttempt) := by
  cases p with
  | false => exact .inl ⟨rfl, startAttempt_absent P count a⟩
  | true =>
    rcases Nat.lt_or_ge count.toNat P.minEvents.val with h | h
    · exact .inr (.inl ⟨rfl, h, startAttempt_short h a⟩)
    · exact .inr (.inr ⟨rfl, h, startAttempt_qualifies h a⟩)

/-- START leaves the same elements whatever it finds (R80: it clears the frame, the count and the flag). -/
theorem startAttempt_forgets (P : Params) (p : Bool) (count : EventCount) (a b : Arch) :
    startAttempt P p count a = startAttempt P p count b := by
  rcases startAttempt_cases P p count a with ⟨rfl, h⟩ | ⟨rfl, hc, h⟩ | ⟨rfl, hc, h⟩
  · rw [h, startAttempt_absent]; rfl
  · rw [h, startAttempt_short hc]; rfl
  · rw [h, startAttempt_qualifies hc]; rfl

/-! ### shiftIn -/

/-- The bits of the shifted frame, by the two parts of the concatenation. -/
theorem shiftIn_getLsbD (F : FrameWord) (b : Bool) (k : Nat) :
    (shiftIn F b).getLsbD k = if k < 1 then (BitVec.ofBool b).getLsbD k else (F.extractLsb' 0 39).getLsbD (k - 1) :=
  BitVec.getLsbD_append

/-- The new bit 0 is the bit shifted in. -/
theorem shiftIn_getLsbD_zero (F : FrameWord) (b : Bool) : (shiftIn F b).getLsbD 0 = b := by
  rw [shiftIn_getLsbD]; simp

/-- Every other bit moved up by one, and the old bit 39 is lost. -/
theorem shiftIn_getLsbD_succ (F : FrameWord) (b : Bool) (k : Nat) :
    (shiftIn F b).getLsbD (k + 1) = (decide (k < 39) && F.getLsbD k) := by
  simp [shiftIn_getLsbD]

/-- The frame as a number: twice the low 39 bits and the new bit. -/
theorem shiftIn_toNat (F : FrameWord) (b : Bool) :
    (shiftIn F b).toNat = 2 * (F.toNat % 2 ^ 39) + b.toNat := by
  simp only [shiftIn, BitVec.toNat_append, BitVec.extractLsb'_toNat, BitVec.toNat_ofBool, Nat.shiftRight_zero]
  rw [Nat.shiftLeft_eq, Nat.pow_one, Nat.mul_comm, ← Nat.pow_one 2,
    Nat.two_pow_add_eq_or_of_lt (by cases b <;> decide)]

/-! ### The checksum -/

theorem checksum_toNat (F : FrameWord) :
    (checksum F).toNat =
      ((byteOf F 4).toNat + (byteOf F 3).toNat + (byteOf F 2).toNat + (byteOf F 1).toNat) % 256 := by
  simp [checksum]

theorem verdict_ok_iff (F : FrameWord) : verdict F = .ok ↔ chkOk F = true := by
  cases h : chkOk F <;> simp [verdict, h]

/-- A verdict is one of two codes (R133 item 3). -/
theorem verdict_cases (F : FrameWord) : verdict F = .ok ∨ verdict F = .checksumMismatch := by
  cases h : chkOk F <;> simp [verdict, h]

/-! ### The ports -/

theorem Arch.valid_iff (a : Arch) : a.valid = true ↔ a.phase = .done ∧ a.result = .ok := by
  simp [Arch.valid]

end Sys2Proof.Machine
end

