-- ==== Sys2Proof/Laws/Exec.lean ====
section
/-! SUPPORT. What an instruction and a step can do, said once: every later claim about a next state starts here. -/

namespace Sys2Proof.Machine

/-- The four things that an instruction can do to the five elements. -/
inductive CoreMove (P : Params) (a : Arch) : Instr → Arch → Prop where
  /-- NOP and the reads leave them (R48, R116). -/
  | keep (i : Instr) (h : i = .nop ∨ isRead i = true) : CoreMove P a i a
  /-- RSVD, and a PULSE outside ACCUM, set PROTO_ERR (R78, R117). -/
  | breach (i : Instr) (h : isRsvd i = true ∨ ((∃ d, i = .pulse d) ∧ a.phase ≠ .accum)) : CoreMove P a i a.setProtoErr
  /-- START (R115). -/
  | start (p : Bool) (count : EventCount) : CoreMove P a (.start p count) (startAttempt P p count a)
  /-- A PULSE that ACCUM takes (R78). -/
  | pulse (dur : Duration) (b : Arch) (h : a.phase = .accum) (hb : accumulate P dur a = some b) :
      CoreMove P a (.pulse dur) b

/-- If an instruction answers a next state, the core had been reset, the five elements made one of the four moves, and
nothing else changed but the consumer's word, and that only for a read. -/
theorem exec_next {i : Instr} {s t : State} (h : exec i s = .next t) :
    s.launch = .live ∧ CoreMove s.params s.arch i t.arch
      ∧ t = { s with arch := t.arch, lastRead := t.lastRead }
      ∧ (isRead i = false → t.lastRead = s.lastRead) := by
  cases i with
  | nop =>
    obtain ⟨hl, h⟩ := ifLive_next h
    cases h
    exact ⟨hl, .keep _ (.inl rfl), rfl, fun _ => rfl⟩
  | start p count =>
    obtain ⟨hl, h⟩ := ifLive_next h
    cases h
    exact ⟨hl, .start p count, rfl, fun _ => rfl⟩
  | pulse dur =>
    obtain ⟨hl, h⟩ := ifLive_next h
    cases hp : s.arch.phase with
    | accum =>
      simp only [hp] at h
      cases ha : accumulate s.params dur s.arch with
      | none => simp [ha] at h
      | some a =>
        simp only [ha] at h
        cases h
        exact ⟨hl, .pulse dur a hp ha, rfl, fun _ => rfl⟩
    | idle =>
      simp only [hp] at h
      cases h
      exact ⟨hl, .breach _ (.inr ⟨⟨dur, rfl⟩, by simp [hp]⟩), rfl, fun _ => rfl⟩
    | done =>
      simp only [hp] at h
      cases h
      exact ⟨hl, .breach _ (.inr ⟨⟨dur, rfl⟩, by simp [hp]⟩), rfl, fun _ => rfl⟩
  | rsvd3 | rsvd4to7 | rsvd8toF =>
    obtain ⟨hl, h⟩ := ifLive_next h
    cases h
    exact ⟨hl, .breach _ (.inl rfl), rfl, fun _ => rfl⟩
  | rdHum | rdTemp | rdChk | rdStatus | rdR4toR7 =>
    obtain ⟨hl, h⟩ := ifLive_next h
    cases h
    exact ⟨hl, .keep _ (.inr rfl), rfl, by simp [isRead]⟩

/-! ### PULSE by what the accumulator does with it -/

theorem exec_pulse_taken {s : State} {dur : Duration} {a : Arch} (hl : s.launch = .live) (hp : s.arch.phase = .accum)
    (ha : accumulate s.params dur s.arch = some a) : exec (.pulse dur) s = .next (s.setArch a) := by
  simp [exec, execPulse, hl, hp, ha]

theorem exec_pulse_noCount {s : State} {dur : Duration} (hl : s.launch = .live) (hp : s.arch.phase = .accum)
    (ha : accumulate s.params dur s.arch = none) : exec (.pulse dur) s = .refused .countPastForty := by
  simp [exec, execPulse, hl, hp, ha]

theorem exec_pulse_dropped {s : State} {dur : Duration} (hl : s.launch = .live) (hp : s.arch.phase ≠ .accum) :
    exec (.pulse dur) s = flagProtocolError s := by
  cases h : s.arch.phase with
  | accum => exact absurd h hp
  | idle => simp [exec, execPulse, hl, h]
  | done => simp [exec, execPulse, hl, h]

/-- All that a step can do: nothing without an event, reset, a command, an idle edge, a read, a power-up. -/
theorem step_cases (s : State) :
    (s.inputs = [] ∧ step s = .next s)
    ∨ (∃ v w rest, s.inputs = .edge true v w :: rest ∧ step s = .next (resetCore (s.setInputs rest)))
    ∨ (∃ pw rest, s.inputs = presentWord pw :: rest ∧ step s = exec (decode pw) (s.setInputs rest))
    ∨ (∃ w rest, s.inputs = .edge false false w :: rest ∧ step s = .next (s.setInputs rest))
    ∨ (∃ rest, s.inputs = .powerUp :: rest ∧ step s = .next (powerUpCore (s.setInputs rest))) := by
  cases h : s.inputs with
  | nil => exact .inl ⟨rfl, by simp [step, h]⟩
  | cons e rest =>
    cases e with
    | edge rst v w =>
      cases rst with
      | true => exact .inr (.inl ⟨v, w, rest, rfl, by simp [step, h]⟩)
      | false =>
        cases v with
        | true => exact .inr (.inr (.inl ⟨.command w, rest, rfl, by simp [step, h, decode]⟩))
        | false => exact .inr (.inr (.inr (.inl ⟨w, rest, rfl, by simp [step, h]⟩)))
    | read rsel => exact .inr (.inr (.inl ⟨.select rsel, rest, rfl, by simp [step, h, decode]⟩))
    | powerUp => exact .inr (.inr (.inr (.inr ⟨rest, rfl, by simp [step, h]⟩)))

/-- A command stream run in two parts. -/
theorem execAll_append (xs ys : List Instr) (s : State) :
    execAll (xs ++ ys) s =
      match execAll xs s with
      | .next t => execAll ys t
      | .fault f => .fault f
      | .refused r => .refused r := by
  induction xs generalizing s with
  | nil => rfl
  | cons i is ih =>
    simp only [List.cons_append, execAll]
    cases exec i s with
    | next t => exact ih t
    | fault f => rfl
    | refused r => rfl

end Sys2Proof.Machine
end

