-- ==== Sys2Proof/Laws/PerInstr.lean ====
section
/-! SUPPORT. For each instruction, that its encoding stands in its own row of the opcode table. -/

namespace Sys2Proof

/-- The word of an instruction matches, in the opcode table of its port, its own row and no other. -/
def Laws.EncodesInRow.Statement (i : Instr) : Prop :=
  i.wellFormed = true →
    match encode i with
    | .command w => some (rowsMatching commandRows w) = (commandRowOf i).map ([·])
    | .select r => some (rowsMatching selectRows r) = (selectRowOf i).map ([·])

namespace Laws.EncodesInRow

/-- A word with a given opcode stands in that opcode's row. -/
theorem row_of_opcode (w : CommandWord) (opc : BitVec 4) (k : Nat) (h : opcField w = opc)
    (hk : (if opc.toNat ≤ 3 then opc.toNat else if opc.toNat ≤ 7 then 4 else 5) = k) :
    some (rowsMatching commandRows w) = (some k).map ([·]) := by
  rw [← wordOf_fields w, rowsMatching_wordOf, h, rowsMatching_opcode, hk]
  rfl

theorem nop : Statement .nop := fun _ => row_of_opcode _ 0x0#4 0 (by decide) (by decide)

theorem start (p : Bool) (count : EventCount) : Statement (.start p count) :=
  fun _ => row_of_opcode _ 0x1#4 1 (by rw [formatS_eq_wordOf, opcField_wordOf]) (by decide)

theorem pulse (dur : Duration) : Statement (.pulse dur) :=
  fun _ => row_of_opcode _ 0x2#4 2 (by rw [formatP_eq_wordOf, opcField_wordOf]) (by decide)

theorem rsvd3 (imm28 : BitVec 28) : Statement (.rsvd3 imm28) :=
  fun _ => row_of_opcode _ 0x3#4 3 (opcField_wordOf _ imm28) (by decide)

theorem rsvd4to7 (opc : BitVec 4) (imm28 : BitVec 28) : Statement (.rsvd4to7 opc imm28) := by
  intro h
  simp only [Instr.wellFormed, Bool.and_eq_true, decide_eq_true_eq] at h
  exact row_of_opcode _ opc 4 (opcField_wordOf opc imm28) (by rw [if_neg (by omega), if_pos h.2])

theorem rsvd8toF (opc : BitVec 4) (imm28 : BitVec 28) : Statement (.rsvd8toF opc imm28) := by
  intro h
  simp only [Instr.wellFormed, decide_eq_true_eq] at h
  exact row_of_opcode _ opc 5 (opcField_wordOf opc imm28) (by rw [if_neg (by omega), if_neg (by omega)])

theorem rdHum : Statement .rdHum := fun _ => rfl

theorem rdTemp : Statement .rdTemp := fun _ => rfl

theorem rdChk : Statement .rdChk := fun _ => rfl

theorem rdStatus : Statement .rdStatus := fun _ => rfl

theorem rdR4toR7 (rsel : Select) : Statement (.rdR4toR7 rsel) := by
  intro h
  simp only [Instr.wellFormed, decide_eq_true_eq] at h
  simp only [encode, rowsMatching_select, selectRowOf]
  rw [if_neg (by omega)]
  rfl

end Laws.EncodesInRow

end Sys2Proof
end

