-- ==== Sys2Proof/Tests/Slice0.lean ====
section
/-! SUPPORT. Small tests. Expected values are the spec's: 95_test_vectors.md (named by section), 30_encoding.md and the
examples of the rules. The theorems named `witness_…` show that the hypotheses of a statement can be met together, each
clause at a boundary value. -/

namespace Sys2Proof.Tests

open Sys2Proof Sys2Proof.Machine

/-! ### Helpers -/

/-- The default build, live, with the given elements. -/
def atArch (a : Arch) : State := State.reset.setArch a

/-- An open attempt with `n` pulses taken. -/
def accumAt (F : FrameWord) (n : Fin 41) : State := atArch ⟨F, n, .accum, .none, false⟩

/-- A finished attempt. -/
def doneAt (F : FrameWord) (n : Fin 41) (r : ResultCode) : State := atArch ⟨F, n, .done, r, false⟩

/-- A powered core that has not been reset. -/
def unreset (es : List PortEvent) : State := { State.reset with launch := .beforeReset, inputs := es }

/-- A build with the given parameters. -/
def build (l t m : Fin 65536) : Params := ⟨l, t, m⟩

/-- The five elements of a next state. -/
def archAfter : StepOutcome → Option Arch
  | .next t => some t.arch
  | .fault _ => none
  | .refused _ => none

/-- STATUS of a next state. -/
def statusAfter : StepOutcome → Option ReadWord
  | .next t => some t.arch.statusWord
  | .fault _ => none
  | .refused _ => none

/-- The word that a read gave. -/
def readAfter : StepOutcome → Option ReadWord
  | .next t => some t.lastRead
  | .fault _ => none
  | .refused _ => none

/-- The frame of program 1 (95 section 1.4), at its end. -/
def program1End : State := doneAt 0x019000C859#40 40 .ok

/-! ### WellFormed refuses operands outside the row's range (R65) -/

theorem test_wellFormed_refuses_rsvd4to7_low : (Instr.rsvd4to7 3#4 0#28).wellFormed = false := by decide
theorem test_wellFormed_refuses_rsvd4to7_high : (Instr.rsvd4to7 8#4 0#28).wellFormed = false := by decide
theorem test_wellFormed_refuses_rsvd8toF : (Instr.rsvd8toF 7#4 0#28).wellFormed = false := by decide
theorem test_wellFormed_refuses_rdR4toR7 : (Instr.rdR4toR7 3#3).wellFormed = false := by decide
theorem test_wellFormed_takes_bounds :
    (Instr.rsvd4to7 4#4 0#28).wellFormed = true ∧ (Instr.rsvd4to7 7#4 0#28).wellFormed = true
      ∧ (Instr.rsvd8toF 8#4 0#28).wellFormed = true ∧ (Instr.rsvd8toF 15#4 0#28).wellFormed = true
      ∧ (Instr.rdR4toR7 4#3).wellFormed = true ∧ (Instr.rdR4toR7 7#3).wellFormed = true := by decide

/-! ### Decoding: words written out bit by bit from R56 to R63 -/

theorem test_decode_nop : decodeCommand 0b0000_0000000000000000000000000000#32 = .nop := by decide
theorem test_decode_nop_reservedBits : decodeCommand 0b0000_1111111111111111111111111111#32 = .nop := by decide
theorem test_decode_start : decodeCommand 0b0001_00000000000_1_0000000000101010#32 = .start true 42#16 := by decide
theorem test_decode_start_reservedBits : decodeCommand 0b0001_11111111111_0_0000000000101001#32 = .start false 41#16 := by
  decide
theorem test_decode_pulse : decodeCommand 0b0010_000000000000_0000000000011001#32 = .pulse 25#16 := by decide
theorem test_decode_pulse_reservedBits : decodeCommand 0b0010_111111111111_0000000001000110#32 = .pulse 70#16 := by
  decide
theorem test_decode_rsvd3 : decodeCommand 0b0011_0000000000000000000000000001#32 = .rsvd3 1#28 := by decide
theorem test_decode_rsvd4 : decodeCommand 0b0100_0000000000000000000000000000#32 = .rsvd4to7 4#4 0#28 := by decide
theorem test_decode_rsvd7 : decodeCommand 0b0111_1000000000000000000000000000#32 = .rsvd4to7 7#4 0x8000000#28 := by decide
theorem test_decode_rsvd8 : decodeCommand 0b1000_0000000000000000000000000000#32 = .rsvd8toF 8#4 0#28 := by decide
theorem test_decode_rsvdF : decodeCommand 0b1111_0000000000000000000000000000#32 = .rsvd8toF 15#4 0#28 := by decide
theorem test_decode_selects :
    decodeSelect 0b000#3 = .rdHum ∧ decodeSelect 0b001#3 = .rdTemp ∧ decodeSelect 0b010#3 = .rdChk
      ∧ decodeSelect 0b011#3 = .rdStatus ∧ decodeSelect 0b100#3 = .rdR4toR7 4#3
      ∧ decodeSelect 0b111#3 = .rdR4toR7 7#3 := by decide
theorem test_decodeTransfer_rejects :
    decodeTransfer 16 0 = .error (.noSuchLength 16) ∧ decodeTransfer 8 8 = .error .widerThanSelect
      ∧ decodeTransfer 32 0x100000000 = .error .widerThanCommand := ⟨rfl, rfl, rfl⟩

/-! ### Encoding: the words of 95 section 2.6 -/

theorem test_encode_words :
    encode .nop = .command 0x00000000#32 ∧ encode (.start true 42#16) = .command 0x1001002A#32
      ∧ encode (.start false 0#16) = .command 0x10000000#32 ∧ encode (.start true 41#16) = .command 0x10010029#32
      ∧ encode (.pulse 70#16) = .command 0x20000046#32 ∧ encode (.pulse 25#16) = .command 0x20000019#32
      ∧ encode (.pulse 65535#16) = .command 0x2000FFFF#32 ∧ encode (.rsvd8toF 15#4 0#28) = .command 0xF0000000#32 := by
  decide

/-! ### Classifier (95 section 2.1) -/

theorem test_classify_default_band :
    classify Params.default 64#16 = false ∧ classify Params.default 65#16 = true
      ∧ classify Params.default 75#16 = true ∧ classify Params.default 76#16 = false
      ∧ classify Params.default 65535#16 = false := by decide
theorem test_classify_no_wrap :
    classify (build 3 5 42) 0#16 = true ∧ classify (build 3 5 42) 8#16 = true ∧ classify (build 3 5 42) 9#16 = false
      ∧ classify (build 65535 5 42) 65535#16 = true ∧ classify (build 70 0 42) 71#16 = false := by decide

/-! ### Checksum (95 section 2.3): the four-byte sum, not the three-byte one -/

theorem test_checksum_scenario : checksum 0x019000C859#40 = 0x59#8 ∧ chkOk 0x019000C859#40 = true := by decide
theorem test_checksum_wraps : checksum 0x8080000000#40 = 0x00#8 ∧ chkOk 0x8080000000#40 = true := by decide
theorem test_checksum_high_byte : checksum 0x0100000000#40 = 0x01#8 ∧ chkOk 0x0100000000#40 = false := by decide
theorem test_checksum_ones : checksum 0xFFFFFFFFFF#40 = 0xFC#8 ∧ chkOk 0xFFFFFFFFFC#40 = true := by decide
theorem test_checksum_mixed : checksum 0x123456789A#40 = 0x14#8 := by decide

/-! ### PULSE (95 section 2.2 and programs 1 to 3) -/

theorem test_pulse_first : archAfter (exec (.pulse 70#16) (accumAt 0#40 0)) = some ⟨1#40, 1, .accum, .none, false⟩ := by
  decide
theorem test_pulse_fortieth :
    archAfter (exec (.pulse 70#16) (accumAt 0x00C800642C#40 39)) = some ⟨0x019000C859#40, 40, .done, .ok, false⟩ := by
  decide
theorem test_pulse_fortieth_mismatch :
    statusAfter (exec (.pulse 25#16) (accumAt 0x00C8006400#40 39)) = some 0x04A8#16 := by decide
theorem test_pulse_forty_first : statusAfter (exec (.pulse 70#16) (doneAt 0#40 40 .ok)) = some 0x19A8#16 := by decide
theorem test_pulse_idle : archAfter (exec (.pulse 70#16) State.reset) = some ⟨0#40, 0, .idle, .none, true⟩ := by decide

/-! ### START, NOP and RSVD (95 section 2.5) -/

theorem test_start_counts :
    statusAfter (exec (.start true 42#16) State.reset) = some 0x0040#16
      ∧ statusAfter (exec (.start true 41#16) State.reset) = some 0x0380#16
      ∧ statusAfter (exec (.start true 65535#16) State.reset) = some 0x0040#16
      ∧ statusAfter (exec (.start false 100#16) State.reset) = some 0x0280#16 := by decide
theorem test_start_clears :
    archAfter (exec (.start false 0#16) program1End) = some ⟨0#40, 0, .done, .noResponse, false⟩ := by decide
theorem test_start_minEvents_zero :
    statusAfter (exec (.start true 0#16) (State.resetWith (build 70 5 0))) = some 0x0040#16 := by decide
theorem test_nop_in_attempt : statusAfter (exec .nop (accumAt 1#40 1)) = some 0x0041#16 := by decide
theorem test_rsvd_after_reset : statusAfter (exec (.rsvd8toF 15#4 0#28) State.reset) = some 0x0800#16 := by decide
theorem test_rsvd_in_attempt : statusAfter (exec (.rsvd3 0#28) (accumAt 0#40 20)) = some 0x0854#16 := by decide
theorem test_rsvd_after_done : statusAfter (exec (.rsvd4to7 5#4 1#28) (doneAt 0#40 40 .ok)) = some 0x19A8#16 := by decide

/-! ### Reads and the result port (95 sections 1.3, 2.2 and 2.4) -/

theorem test_reads_program1 :
    readAfter (exec .rdHum program1End) = some 0x0190#16 ∧ readAfter (exec .rdTemp program1End) = some 0x00C8#16
      ∧ readAfter (exec .rdChk program1End) = some 0x5959#16
      ∧ readAfter (exec .rdStatus program1End) = some 0x11A8#16
      ∧ readAfter (exec (.rdR4toR7 4#3) program1End) = some 0x0000#16 := by decide
theorem test_reads_partial_frame :
    readAfter (exec .rdHum (accumAt 0x190#40 16)) = some 0x0000#16
      ∧ readAfter (exec .rdTemp (accumAt 0x190#40 16)) = some 0x0001#16
      ∧ readAfter (exec .rdChk (accumAt 0x190#40 16)) = some 0x0190#16
      ∧ readAfter (exec .rdStatus (accumAt 0x190#40 16)) = some 0x0050#16 := by decide
theorem test_resultPort_valid : program1End.resultPort = some ⟨true, 1#3, true, 0x0190#16, 0x00C8#16⟩ := by decide
theorem test_resultPort_mismatch :
    (doneAt 0x02080105AB#40 40 .checksumMismatch).resultPort = some ⟨true, 4#3, false, 0#16, 0#16⟩ := by decide
theorem test_resultPort_bit15 :
    (doneAt 0x0000800080#40 40 .ok).resultPort = some ⟨true, 1#3, true, 0x0000#16, 0x8000#16⟩ := by decide

/-! ### Steps (95 section 2.7, R151, R154) -/

theorem test_step_reset_beats_command :
    archAfter (step (program1End.setInputs [.edge true true 0x20000046#32])) = some Arch.reset := by decide
theorem test_step_idle_edge :
    archAfter (step (program1End.setInputs [.edge false false 0x20000046#32])) = some program1End.arch := by decide
theorem test_step_command :
    statusAfter (step (State.reset.withFetchWord 32 0x1001002A)) = some 0x0040#16 := by decide
theorem test_step_read : readAfter (step (program1End.withFetchWord 8 2)) = some 0x5959#16 := by decide
theorem test_step_before_reset : step (unreset [.edge false true 0#32]) = .fault .beforeFirstReset := rfl
theorem test_step_power_then_reset :
    archAfter (step (powerUpCore (program1End.setInputs [.edge true false 0#32]))) = some Arch.reset := by decide

/-! ### Assembler (R65, R66) -/

theorem test_assemble_text :
    (assembleText Params.default "START 1, 42 ; qualify".toList).toOption = some [.command 0x1001002A#32]
      ∧ (assembleText Params.default "  RSVD 0xF,0x0".toList).toOption = some [.command 0xF0000000#32]
      ∧ (assembleText Params.default "RD STATUS".toList).toOption = some [.select 3#3]
      ∧ (assembleText Params.default "; no command".toList).toOption = some [] := by decide
theorem test_assemble_rejects :
    assembleText Params.default "PULSE 65536".toList = .error .operandOutOfRange
      ∧ assembleText Params.default "JUMP 1".toList = .error .unknownMnemonic
      ∧ assembleText Params.default "START 1".toList = .error .wrongOperands := ⟨rfl, rfl, rfl⟩
theorem test_assemble_stream :
    (assembleStream Params.default ["BIT1".toList, "BIT0".toList, "ABSENT".toList, "BEGIN".toList]).toOption
      = some [.command 0x20000046#32, .command 0x20000019#32, .command 0x10000000#32, .command 0x1001002A#32] := by
  decide
theorem test_frameBits_first_bits :
    (asmFrameBits Params.default 0xA000000000).take 3
      = [.command 0x20000046#32, .command 0x20000019#32, .command 0x20000046#32] := by decide

/-! ### Witnesses: the hypotheses of each statement met together, each clause at a boundary value -/

/-- Forty pulses with a reserved opcode, a NOP and a read among them. -/
def forty : List Instr := .rsvd3 0#28 :: .nop :: .rdHum :: List.replicate 40 (.pulse 70#16)

/-- Thirty-nine pulses. -/
def thirtyNine : List Instr := List.replicate 39 (.pulse 70#16)

theorem witness_ResetEdge :
    (program1End.setInputs [.edge true true 0x20000046#32, .edge true false 0#32]).inputs
      = .edge true true 0x20000046#32 :: [.edge true false 0#32] := rfl
theorem witness_BeforeFirstReset :
    (unreset [.edge false true 0#32]).launch = .beforeReset
      ∧ (unreset [.edge false true 0#32]).inputs = presentWord (.command 0#32) :: []
      ∧ (unreset [.read 7#3]).inputs = presentWord (.select 7#3) :: [] := ⟨rfl, rfl, rfl⟩
theorem witness_PowerUp : (program1End.setInputs [.powerUp]).inputs = .powerUp :: [] := rfl
theorem witness_NoEventKeepsState : State.reset.inputs = [] := rfl
theorem witness_ClockEdge :
    (State.reset.setInputs [.edge false true 0#32]).inputs = .edge false true 0#32 :: []
      ∧ (State.reset.setInputs [.edge false false 0#32]).inputs = .edge false false 0#32 :: []
      ∧ (State.reset.setInputs [.edge false false 0#32]).launch = .live := ⟨rfl, rfl, rfl⟩
theorem witness_StepRunsDecodedInstruction :
    (State.reset.present (.command 0x2000FFFF#32)).inputs = presentWord (.command 0x2000FFFF#32) :: []
      ∧ decode (.command 0x2000FFFF#32) = .pulse 65535#16 ∧ (Instr.pulse 65535#16).wellFormed = true := by decide
theorem witness_TableWordRuns :
    decodeTableWord 32 0xFFFFFFFF = some (.rsvd8toF 15#4 0xFFFFFFF#28) ∧ decodeTableWord 8 7 = some (.rdR4toR7 7#3) := by
  decide
theorem witness_StepTakesOneEvent :
    step (State.reset.setInputs [.edge false true 0#32]) = .next State.reset := rfl
theorem witness_EveryInstructionCompletes : (accumAt 0#40 39).launch = .live ∧ StateInv (accumAt 0#40 39) := by decide
theorem witness_DecodeEncode :
    (Instr.rsvd4to7 4#4 0xFFFFFFF#28).wellFormed = true ∧ (Instr.rsvd8toF 8#4 0#28).wellFormed = true
      ∧ (Instr.rdR4toR7 4#3).wellFormed = true ∧ (Instr.start true 65535#16).wellFormed = true := by decide
theorem witness_DecodeByOpcode :
    (0x0FFFFFFF#32).toNat / 2 ^ 28 = 0 ∧ (0x1FFFFFFF#32).toNat / 2 ^ 28 = 1 ∧ (0x2FFFFFFF#32).toNat / 2 ^ 28 = 2
      ∧ 3 ≤ (0x30000000#32).toNat / 2 ^ 28 ∧ 3 ≤ (0xFFFFFFFF#32).toNat / 2 ^ 28 := by decide
theorem witness_ReservedBitsIgnored :
    (0x0FFFFFFF#32).toNat / 2 ^ 28 = 0 ∧ (0x1FFF002A#32).toNat / 2 ^ 28 = 1 ∧ (0x2FFF0046#32).toNat / 2 ^ 28 = 2 := by
  decide
theorem witness_DecodedIsWellFormed :
    isRsvd (decode (.command 0x3FFFFFFF#32)) = true ∧ isRead (decode (.select 3#3)) = true := by decide
theorem witness_PulseEffect :
    (accumAt 0#40 38).launch = .live ∧ (accumAt 0#40 38).arch.phase = .accum ∧ (accumAt 0#40 38).arch.bitcnt.val ≤ 38
      ∧ (accumAt 0#40 39).arch.phase = .accum ∧ (accumAt 0#40 39).arch.bitcnt.val = 39
      ∧ State.reset.arch.phase ≠ .accum ∧ program1End.arch.phase ≠ .accum := by decide
theorem witness_PulsePastForty :
    (accumAt 0#40 40).launch = .live ∧ (accumAt 0#40 40).arch.phase = .accum ∧ (accumAt 0#40 40).arch.bitcnt.val = 40 := by
  decide
theorem witness_ProducerAttempt : ProducerAttempt Params.default true 42#16 forty :=
  ⟨⟨rfl, by decide⟩, by decide, by decide⟩
theorem witness_FrameInCaptureOrder :
    State.reset.launch = .live ∧ ProducerAttempt State.reset.params true 42#16 forty := ⟨rfl, witness_ProducerAttempt⟩
theorem witness_CleanReadingAfterAttempt :
    program1End.launch = .live ∧ ProducerAttempt program1End.params true 42#16 forty := ⟨rfl, witness_ProducerAttempt⟩
theorem witness_ShortAttemptStaysOpen :
    State.reset.launch = .live ∧ Qualifies State.reset.params true 42#16 ∧ thirtyNine.any isStart = false
      ∧ (durationsOf thirtyNine).length ≤ 39 := ⟨rfl, ⟨rfl, by decide⟩, by decide, by decide⟩
theorem witness_AttemptsAreIndependent :
    State.reset.launch = .live ∧ program1End.launch = .live ∧ State.reset.params = program1End.params
      ∧ ProducerAttempt State.reset.params true 42#16 forty ∧ ProducerAttempt program1End.params true 42#16 forty :=
  ⟨rfl, rfl, rfl, witness_ProducerAttempt, witness_ProducerAttempt⟩
theorem witness_VerdictOnFortiethPulse :
    exec .nop program1End = .next program1End ∧ program1End.arch.result = .ok ∧ StateInv program1End :=
  ⟨rfl, rfl, by decide⟩
theorem witness_MismatchKeepsFrame :
    (accumAt 0x00C8006400#40 39).launch = .live ∧ (accumAt 0x00C8006400#40 39).arch.phase = .accum
      ∧ (accumAt 0x00C8006400#40 39).arch.bitcnt.val = 39
      ∧ chkOk (shiftIn 0x00C8006400#40 (classify Params.default 25#16)) = false := by decide
theorem reachable_program1End : program1End.arch.Reachable := by decide
theorem reachable_mismatch : (doneAt 0x019000C800#40 40 .checksumMismatch).arch.Reachable := by decide
theorem reachable_noResponse : (doneAt 0#40 0 .noResponse).arch.Reachable := by decide
theorem reachable_incomplete : (doneAt 0#40 0 .incompleteCapture).arch.Reachable := by decide
theorem reachable_reset : State.reset.arch.Reachable := by decide
theorem witness_SliceRoundTrip :
    program1End.arch.frame = 0x0190#16 ++ 0x00C8#16 ++ 0x59#8 ∧ program1End.arch.Reachable
      ∧ program1End.arch.phase = .done ∧ program1End.arch.bitcnt.val = 40 ∧ chkOk program1End.arch.frame = true
      ∧ (doneAt 0x019000C800#40 40 .checksumMismatch).arch.Reachable ∧ chkOk 0x019000C800#40 = false :=
  ⟨by decide, reachable_program1End, rfl, rfl, by decide, reachable_mismatch, by decide⟩
theorem witness_live_reads :
    State.reset.launch = .live ∧ State.reset.arch.Reachable ∧ State.reset.arch.phase = .idle
      ∧ (doneAt 0#40 0 .noResponse).launch = .live ∧ (doneAt 0#40 0 .noResponse).arch.Reachable
      ∧ (doneAt 0#40 0 .incompleteCapture).arch.Reachable ∧ State.reset.arch = Arch.reset :=
  ⟨rfl, reachable_reset, rfl, rfl, reachable_noResponse, reachable_incomplete, rfl⟩
theorem witness_ReadChecksums :
    program1End.launch = .live ∧ program1End.arch.Reachable ∧ program1End.arch.phase = .done
      ∧ program1End.arch.bitcnt.val = 40 := by decide
theorem witness_ReadPortMap :
    program1End.launch = .live ∧ (0#3).toNat = 0 ∧ (1#3).toNat = 1 ∧ (2#3).toNat = 2 ∧ (3#3).toNat = 3
      ∧ 4 ≤ (4#3).toNat ∧ 4 ≤ (7#3).toNat := by decide
theorem witness_ReadsHaveNoEffect : isRead (.rdR4toR7 4#3) = true ∧ program1End.launch = .live := by decide
theorem witness_NoPartialFrameShown :
    StateInv program1End ∧ program1End.resultPort = some ⟨true, 1#3, true, 0x0190#16, 0x00C8#16⟩
      ∧ StateInv State.reset ∧ State.reset.resultPort = some ⟨false, 0#3, false, 0#16, 0#16⟩ :=
  ⟨fun _ => reachable_program1End, by decide, fun _ => reachable_reset, by decide⟩
theorem witness_StartEffect :
    program1End.launch = .live ∧ (41#16).toNat < program1End.params.minEvents.val
      ∧ program1End.params.minEvents.val ≤ (42#16).toNat := by decide
theorem witness_NopEffect : program1End.launch = .live := rfl
theorem witness_ReservedOpcodeEffect :
    isRsvd (.rsvd3 0#28) = true ∧ isRsvd (.rsvd4to7 4#4 0#28) = true ∧ isRsvd (.rsvd8toF 15#4 0#28) = true
      ∧ program1End.launch = .live := by decide
theorem witness_PhaseMoves : StateInv State.reset ∧ exec .nop State.reset = .next State.reset := ⟨by decide, rfl⟩
theorem witness_DoneIsTerminal :
    program1End.launch = .live ∧ program1End.arch.phase = .done ∧ step program1End = .next program1End := ⟨rfl, rfl, rfl⟩
theorem witness_ProtocolErrorIsSticky :
    exec (.rsvd3 0#28) State.reset = .next (State.reset.setArch State.reset.arch.setProtoErr)
      ∧ State.reset.arch.protoErr = false ∧ State.reset.arch.setProtoErr.protoErr = true := ⟨rfl, rfl, rfl⟩
theorem witness_FailedStartPrecludesDecoding :
    State.reset.launch = .live ∧ ¬ Qualifies State.reset.params true 41#16 ∧ ¬ Qualifies State.reset.params false 42#16
      ∧ forty.any isStart = false :=
  ⟨rfl, fun h => absurd h.2 (by decide), fun h => absurd h.1 (by decide), by decide⟩
theorem witness_OutcomeCauses :
    StateInv State.reset ∧ exec (.start false 0#16) State.reset = .next (doneAt 0#40 0 .noResponse)
      ∧ (doneAt 0#40 0 .noResponse).arch.result ≠ State.reset.arch.result := ⟨by decide, rfl, by decide⟩
theorem witness_OutcomeCauses_pulse :
    StateInv (accumAt 0#40 39) ∧ exec (.pulse 25#16) (accumAt 0#40 39) = .next (doneAt 0#40 40 .ok)
      ∧ (doneAt 0#40 40 .ok).arch.result ≠ (accumAt 0#40 39).arch.result := ⟨by decide, rfl, by decide⟩
theorem witness_OutcomeCauses_mismatch :
    exec (.pulse 70#16) (accumAt 0#40 39) = .next (doneAt 1#40 40 .checksumMismatch)
      ∧ (doneAt 1#40 40 .checksumMismatch).arch.result ≠ (accumAt 0#40 39).arch.result := ⟨rfl, by decide⟩
theorem witness_OutcomeCauses_none :
    StateInv program1End ∧ exec (.start true 42#16) program1End = .next (accumAt 0#40 0)
      ∧ (accumAt 0#40 0).arch.result ≠ program1End.arch.result := ⟨by decide, rfl, by decide⟩
theorem witness_OutcomeCauses_incomplete :
    exec (.start true 41#16) State.reset = .next (doneAt 0#40 0 .incompleteCapture)
      ∧ (doneAt 0#40 0 .incompleteCapture).arch.result ≠ State.reset.arch.result := ⟨rfl, by decide⟩
theorem witness_ResDoneIsALevel :
    step (program1End.present (.command 0x1001002A#32)) = .next (accumAt 0#40 0)
      ∧ (program1End.present (.command 0x1001002A#32)).resultPort = some ⟨true, 1#3, true, 0x0190#16, 0x00C8#16⟩
      ∧ (accumAt 0#40 0).resultPort = some ⟨false, 0#3, false, 0#16, 0#16⟩ := ⟨rfl, by decide, by decide⟩
theorem witness_StepKeepsInvariant :
    StateInv ((accumAt 0#40 39).present (.command 0x20000019#32))
      ∧ step ((accumAt 0#40 39).present (.command 0x20000019#32)) = .next (doneAt 0#40 40 .ok) := ⟨by decide, rfl⟩
theorem witness_InstructionFrame :
    exec (.pulse 70#16) (accumAt 0#40 0) = .next (accumAt 1#40 1) ∧ (accumAt 0#40 0).arch.phase = .accum
      ∧ exec (.pulse 70#16) program1End = .next (program1End.setArch program1End.arch.setProtoErr)
      ∧ program1End.arch.phase ≠ .accum := ⟨rfl, rfl, rfl, by decide⟩
theorem witness_SaturatedDuration :
    Params.default.longRef.val + Params.default.tol.val < 65535 ∧ 65535 < 65606 := by decide
theorem witness_PseudoCommands : 0xFFFFFFFFFF < 2 ^ 40 ∧ 2 ^ 40 ≤ 0x10000000000 := by decide
theorem witness_FrameBitsSendsTheFrame :
    State.reset.launch = .live ∧ 0xFFFFFFFFFF < 2 ^ 40 ∧ classify State.reset.params 25#16 = false
      ∧ assembleLine State.reset.params .beginCapture = .ok [.command 0x1001002A#32]
      ∧ assembleLine State.reset.params (.frameBits 0xFFFFFFFFFF)
        = .ok (asmFrameBits State.reset.params 0xFFFFFFFFFF) := ⟨rfl, by decide, by decide, rfl, rfl⟩

end Sys2Proof.Tests
end

section
/-! SUPPORT. What an instruction leaves unchanged, and the statements of the scope family that follow. -/

namespace Sys2Proof.Machine

/-! ### The fields that no instruction writes -/

/-- An instruction writes the five elements and the consumer's word, and no other field. -/
theorem exec_next_eq {i : Instr} {s t : State} (h : exec i s = .next t) :
    t = { s with arch := t.arch, lastRead := t.lastRead } := by
  obtain ⟨-, -, ht, -⟩ := exec_next h
  exact ht

theorem exec_params {i : Instr} {s t : State} (h : exec i s = .next t) : t.params = s.params := by
  rw [exec_next_eq h]

theorem exec_launch {i : Instr} {s t : State} (h : exec i s = .next t) : t.launch = s.launch := by
  rw [exec_next_eq h]

theorem exec_inputs {i : Instr} {s t : State} (h : exec i s = .next t) : t.inputs = s.inputs := by
  rw [exec_next_eq h]

theorem exec_draws {i : Instr} {s t : State} (h : exec i s = .next t) : t.draws = s.draws := by
  rw [exec_next_eq h]

/-! ### The move of the five elements, by the instruction -/

/-- A pulse that the accumulator takes does not touch PROTO_ERR (R78). -/
theorem accumulate_protoErr {P : Params} {dur : Duration} {a b : Arch} (h : accumulate P dur a = some b) :
    b.protoErr = a.protoErr := by
  rcases accumulate_cases P dur a with ⟨_, hb⟩ | ⟨_, hb⟩ | ⟨_, hb⟩
  · cases hb.symm.trans h
    rfl
  · cases hb.symm.trans h
    rfl
  · cases hb.symm.trans h

/-- NOP and the reads are no breach of the command protocol (R48, R116). -/
theorem not_breach_of_read_or_nop {i : Instr} {q : Prop} (hi : isRead i = true ∨ i = .nop) :
    ¬ (isRsvd i = true ∨ ((∃ dur, i = .pulse dur) ∧ q)) := by
  rintro (h | ⟨⟨dur, rfl⟩, -⟩)
  · cases i with
    | rsvd3 | rsvd4to7 | rsvd8toF => simp [isRead] at hi
    | _ => simp [isRsvd] at h
  · simp [isRead] at hi

theorem CoreMove.of_read_or_nop {P : Params} {a b : Arch} {i : Instr} (m : CoreMove P a i b)
    (hi : isRead i = true ∨ i = .nop) : b = a := by
  cases m with
  | keep => rfl
  | breach _ h => exact absurd h (not_breach_of_read_or_nop hi)
  | start => simp [isRead] at hi
  | pulse => simp [isRead] at hi

theorem CoreMove.of_breach {P : Params} {a b : Arch} {i : Instr} (m : CoreMove P a i b)
    (hi : isRsvd i = true ∨ ((∃ dur, i = .pulse dur) ∧ a.phase ≠ .accum)) : b = a.setProtoErr := by
  cases m with
  | keep _ h => exact absurd hi (not_breach_of_read_or_nop h.symm)
  | breach => rfl
  | start => simp [isRsvd] at hi
  | pulse dur _ hp => simp [isRsvd, hp] at hi

theorem CoreMove.of_pulse_accum {P : Params} {a b : Arch} {dur : Duration} (m : CoreMove P a (.pulse dur) b)
    (hp : a.phase = .accum) : accumulate P dur a = some b := by
  cases m with
  | keep _ h => simp [isRead] at h
  | breach _ h => simp [isRsvd, hp] at h
  | pulse _ _ _ hb => exact hb

/-! ### The statements -/

/-- Settles O9, by the cases of a step: a command or a read keeps both fields, once its event is off the list. -/
theorem stepTakesOneEvent : Obligations.StepTakesOneEvent := by
  intro s t h
  rcases step_cases s with ⟨hin, hs⟩ | ⟨_, _, rest, hin, hs⟩ | ⟨pw, rest, hin, hs⟩ | ⟨_, rest, hin, hs⟩ |
    ⟨rest, hin, hs⟩
  case inr.inr.inl =>
    have hx : exec (decode pw) (s.setInputs rest) = .next t := hs.symm.trans h
    exact ⟨by simpa [hin] using exec_inputs hx, by simpa using exec_params hx⟩
  all_goals
    cases hs.symm.trans h
    simp [hin]

/-- Settles O53, by the move that the instruction makes on the five elements. -/
theorem instructionFrame : Obligations.InstructionFrame := by
  intro i s t h
  obtain ⟨-, hmove, -, hread⟩ := exec_next h
  refine ⟨exec_params h, exec_launch h, exec_inputs h, exec_draws h, hread, hmove.of_read_or_nop, ?_, ?_⟩
  · intro hi
    simp [hmove.of_breach hi]
  · rintro ⟨⟨dur, rfl⟩, hp⟩
    exact accumulate_protoErr (hmove.of_pulse_accum hp)

end Sys2Proof.Machine
end

section
/-! SUPPORT. The invariant of reachable states (R26), the STATUS word as a number (R33), and the statements of the
state family that follow. -/

namespace Sys2Proof.Machine

/-! ### The invariant, by the phase that an operation leaves (R26) -/

/-- An attempt that is still open satisfies R26 by (b) alone. -/
theorem Arch.reachable_of_accum {a : Arch} (hp : a.phase = .accum) (hc : a.bitcnt.val ≤ 39) (hr : a.result = .none)
    (hf : a.frame.toNat < 2 ^ a.bitcnt.val) : a.Reachable := by
  simp [Arch.Reachable, hp, hc, hr, hf]

/-- An attempt that its START ended satisfies R26 by (e). -/
theorem Arch.reachable_of_failure {a : Arch} (hp : a.phase = .done) (hc : a.bitcnt = 0) (hf : a.frame = 0)
    (hr : a.result = .noResponse ∨ a.result = .incompleteCapture) : a.Reachable := by
  rcases hr with hr | hr <;> simp [Arch.Reachable, hp, hc, hf, hr]

/-- An attempt that its 40th pulse ended satisfies R26 by (d). -/
theorem Arch.reachable_of_verdict {a : Arch} (hp : a.phase = .done) (hc : a.bitcnt.val = 40)
    (hr : a.result = verdict a.frame) : a.Reachable := by
  have hcode := verdict_cases a.frame
  have hok := verdict_ok_iff a.frame
  rw [← hr] at hcode hok
  rcases hcode with h | h <;> simpa [Arch.Reachable, hp, hc, h] using hok

/-! ### The invariant, by the move of the five elements -/

theorem Arch.reachable_reset : Arch.reset.Reachable := by
  simp [Arch.Reachable]

/-- R26 says nothing of PROTO_ERR. -/
theorem Arch.reachable_setProtoErr {a : Arch} : a.setProtoErr.Reachable ↔ a.Reachable := Iff.rfl

/-- START establishes R26, whatever it finds (R115). -/
theorem startAttempt_reachable (P : Params) (p : Bool) (count : EventCount) (a : Arch) :
    (startAttempt P p count a).Reachable := by
  rcases startAttempt_cases P p count a with ⟨-, h⟩ | ⟨-, -, h⟩ | ⟨-, -, h⟩ <;> rw [h]
  · exact Arch.reachable_of_failure rfl rfl rfl (.inl rfl)
  · exact Arch.reachable_of_failure rfl rfl rfl (.inr rfl)
  · exact Arch.reachable_of_accum rfl (by simp) rfl (by simp)

/-- One pulse more, one bit more. -/
theorem shiftIn_toNat_lt {F : FrameWord} {n : Nat} (h : F.toNat < 2 ^ n) (b : Bool) :
    (shiftIn F b).toNat < 2 ^ (n + 1) := by
  have hb := b.toNat_lt
  have hm : F.toNat % 2 ^ 39 ≤ F.toNat := Nat.mod_le _ _
  rw [shiftIn_toNat, Nat.pow_succ]
  omega

/-- A pulse that the accumulator takes keeps R26 (R78): up to the 39th it keeps (b), and the 40th establishes (d). -/
theorem accumulate_reachable {P : Params} {dur : Duration} {a b : Arch} (ha : a.Reachable) (hp : a.phase = .accum)
    (h : accumulate P dur a = some b) : b.Reachable := by
  obtain ⟨-, hopen, -⟩ := ha
  obtain ⟨-, hr, hf⟩ := hopen hp
  rcases accumulate_cases P dur a with ⟨hc, hb⟩ | ⟨-, hb⟩ | ⟨-, hb⟩
  · cases hb.symm.trans h
    exact Arch.reachable_of_accum hp hc hr (shiftIn_toNat_lt hf _)
  · cases hb.symm.trans h
    exact Arch.reachable_of_verdict rfl rfl rfl
  · cases hb.symm.trans h

theorem CoreMove.reachable {P : Params} {a b : Arch} {i : Instr} (m : CoreMove P a i b) (ha : a.Reachable) :
    b.Reachable := by
  cases m with
  | keep => exact ha
  | breach => exact Arch.reachable_setProtoErr.mpr ha
  | start p count => exact startAttempt_reachable P p count a
  | pulse dur b hp hb => exact accumulate_reachable ha hp hb

/-- Every instruction keeps the invariant. -/
theorem exec_stateInv {i : Instr} {s t : State} (hs : StateInv s) (h : exec i s = .next t) : StateInv t := by
  obtain ⟨hl, hmove, -, -⟩ := exec_next h
  exact fun _ => hmove.reachable (hs hl)

/-- Settles O51, by the cases of a step: a reset edge establishes the invariant, an instruction keeps it, and a power-up
leaves a core of which it says nothing. -/
theorem stepKeepsInvariant : Obligations.StepKeepsInvariant := by
  intro s t hs h
  rcases step_cases s with ⟨-, hstep⟩ | ⟨_, _, _, -, hstep⟩ | ⟨_, rest, -, hstep⟩ | ⟨_, _, -, hstep⟩ | ⟨_, -, hstep⟩
  case inr.inr.inl =>
    have hin : StateInv (s.setInputs rest) := hs
    exact exec_stateInv hin (hstep.symm.trans h)
  all_goals cases hstep.symm.trans h
  · exact hs
  · exact fun _ => Arch.reachable_reset
  · exact hs
  · exact fun hl => by simp at hl

/-- Settles O52: the core that is built is the one that a reset edge leaves. -/
theorem resetHasInvariant : Obligations.ResetHasInvariant := fun _ _ => Arch.reachable_reset

/-! ### PROTO_ERR (R25) -/

@[simp] theorem startAttempt_protoErr (P : Params) (p : Bool) (count : EventCount) (a : Arch) :
    (startAttempt P p count a).protoErr = false := by
  rcases startAttempt_cases P p count a with ⟨-, h⟩ | ⟨-, -, h⟩ | ⟨-, -, h⟩ <;> rw [h] <;> rfl

/-- No breach of the command protocol is a START (R25). -/
theorem isStart_of_breach {i : Instr} {q : Prop} (hi : isRsvd i = true ∨ ((∃ dur, i = .pulse dur) ∧ q)) :
    isStart i = false := by
  cases i with
  | start => simp [isRsvd] at hi
  | _ => rfl

theorem isStart_of_read_or_nop {i : Instr} (hi : isRead i = true ∨ i = .nop) : isStart i = false := by
  cases i with
  | start => simp [isRead] at hi
  | _ => rfl

/-- What PROTO_ERR is after a move. -/
theorem CoreMove.protoErr_iff {P : Params} {a b : Arch} {i : Instr} (m : CoreMove P a i b) :
    b.protoErr = true ↔ isStart i = false
      ∧ (a.protoErr = true ∨ isRsvd i = true ∨ ((∃ dur, i = .pulse dur) ∧ a.phase ≠ .accum)) := by
  cases m with
  | keep _ h => simp [isStart_of_read_or_nop h.symm, not_breach_of_read_or_nop h.symm]
  | breach _ h => simp [isStart_of_breach h, h]
  | start => simp [isStart]
  | pulse dur _ hp hb => simp [accumulate_protoErr hb, isStart, isRsvd, hp]

/-- Settles O47: where the move turns PROTO_ERR to 1, it is a breach of the command protocol. -/
theorem protocolErrorIsSticky : Obligations.ProtocolErrorIsSticky := by
  intro i s t h
  obtain ⟨-, hmove, -, -⟩ := exec_next h
  refine ⟨hmove.protoErr_iff, fun hs ht => ?_⟩
  obtain ⟨-, hset | hbreach⟩ := hmove.protoErr_iff.mp ht
  · simp [hs] at hset
  · exact hmove.of_breach hbreach

/-! ### The STATUS word and the codes (R23, R24, R33) -/

@[simp] theorem Arch.bitcntBits_toNat (a : Arch) : a.bitcntBits.toNat = a.bitcnt.val := by
  simp only [Arch.bitcntBits, BitVec.toNat_ofNat]
  omega

/-- A concatenation as a number: its fields do not overlap, so they add. -/
theorem toNat_append_eq_add {v w : Nat} (x : BitVec v) (y : BitVec w) :
    (x ++ y).toNat = 2 ^ w * x.toNat + y.toNat := by
  rw [BitVec.toNat_append, ← Nat.shiftLeft_add_eq_or_of_lt y.isLt, Nat.shiftLeft_eq, Nat.mul_comm]

/-- A bit of a word, from the word as a number. -/
theorem getLsbD_eq_of_toNat {w k : Nat} {x : BitVec w} {b : Bool} (h : x.toNat / 2 ^ k % 2 = b.toNat) :
    x.getLsbD k = b := by
  rw [← BitVec.testBit_toNat, Nat.testBit_eq_decide_div_mod_eq, h]
  simp

/-- STATUS as a number: each field times the weight of its lowest bit. -/
theorem Arch.statusWord_toNat (a : Arch) : a.statusWord.toNat =
    a.bitcnt.val + 2 ^ 6 * (phaseCode a.phase).toNat + 2 ^ 8 * (resultCode a.result).toNat
      + 2 ^ 11 * a.protoErr.toNat + 2 ^ 12 * a.valid.toNat := by
  simp only [Arch.statusWord, toNat_append_eq_add, BitVec.toNat_ofNat, BitVec.toNat_ofBool, Arch.bitcntBits_toNat]
  omega

/-- Settles O37, from STATUS as a number: each field is smaller than the weight of the next. -/
theorem statusFields : Obligations.StatusFields := by
  refine ⟨fun a => ?_, rfl⟩
  have hword := a.statusWord_toNat
  have hcount := a.bitcnt.isLt
  have hphase := (phaseCode a.phase).isLt
  have hresult := (resultCode a.result).isLt
  have hflag := a.protoErr.toNat_lt
  have hvalid := a.valid.toNat_lt
  exact ⟨by omega, by omega, by omega, getLsbD_eq_of_toNat (by omega), getLsbD_eq_of_toNat (by omega), by omega⟩

/-- Settles O38. -/
theorem phaseAndResultCodes : Obligations.PhaseAndResultCodes := ⟨rfl, rfl, rfl, rfl, rfl, rfl, rfl, rfl⟩

/-! ### Reset, and the count that no run reaches -/

/-- Settles O2. -/
theorem resetState : Obligations.ResetState := fun _ => ⟨rfl, rfl, rfl, rfl⟩

/-- Settles O20: no count follows 40, so the accumulator has no next state. -/
theorem pulsePastForty : Obligations.PulsePastForty := by
  intro s dur hl hp hc
  have hnone : accumulate s.params dur s.arch = none := by
    simp [accumulate, nextCount_full hc]
  exact exec_pulse_noCount hl hp hnone

end Sys2Proof.Machine
end

section
/-! SUPPORT. What each read gives in a live core (R102 to R106), and the statement of the memory family that follows. -/

namespace Sys2Proof.Machine

/-! ### The reads, each by the word that it gives -/

section
variable {s : State}

theorem exec_rdHum_live (hl : s.launch = .live) : exec .rdHum s = .next (s.setLastRead (hum s.arch.frame)) :=
  ifLive_live hl _

theorem exec_rdTemp_live (hl : s.launch = .live) : exec .rdTemp s = .next (s.setLastRead (temp s.arch.frame)) :=
  ifLive_live hl _

theorem exec_rdChk_live (hl : s.launch = .live) : exec .rdChk s = .next (s.setLastRead (chkWord s.arch.frame)) :=
  ifLive_live hl _

theorem exec_rdStatus_live (hl : s.launch = .live) : exec .rdStatus s = .next (s.setLastRead s.arch.statusWord) :=
  ifLive_live hl _

theorem exec_rdR4toR7_live (rsel : Select) (hl : s.launch = .live) :
    exec (.rdR4toR7 rsel) s = .next (s.setLastRead 0x0000#16) :=
  ifLive_live hl _

end

/-- A read gives a word that the five elements alone determine, and writes only the consumer's copy of it (R48). -/
theorem exec_read_live {i : Instr} (hi : isRead i = true) :
    ∃ word : Arch → ReadWord, ∀ s : State, s.launch = .live → exec i s = .next (s.setLastRead (word s.arch)) := by
  cases i with
  | rdHum => exact ⟨fun a => hum a.frame, fun _ => exec_rdHum_live⟩
  | rdTemp => exact ⟨fun a => temp a.frame, fun _ => exec_rdTemp_live⟩
  | rdChk => exact ⟨fun a => chkWord a.frame, fun _ => exec_rdChk_live⟩
  | rdStatus => exact ⟨Arch.statusWord, fun _ => exec_rdStatus_live⟩
  | rdR4toR7 rsel => exact ⟨fun _ => 0x0000#16, fun _ => exec_rdR4toR7_live rsel⟩
  | _ => simp [isRead] at hi

/-! ### The statement -/

/-- Settles O39: the word depends on the five elements alone and a read keeps them, so the second read gives it again. -/
theorem readsHaveNoEffect : Obligations.ReadsHaveNoEffect := by
  intro i s hi hl
  obtain ⟨word, hread⟩ := exec_read_live hi
  have hagain : exec i (s.setLastRead (word s.arch)) = .next (s.setLastRead (word s.arch)) :=
    hread (s.setLastRead (word s.arch)) hl
  exact ⟨s.setLastRead (word s.arch), hread s hl, rfl, rfl, hagain⟩

end Sys2Proof.Machine
end

section
/-! SUPPORT. Decoding by the opcode (R59), and the statements of the encoding family about single words. -/

namespace Sys2Proof.Machine

/-! ### The fields as parts of the word's number, and under a mask (R55, R57, R58) -/

theorem opcField_toNat (w : CommandWord) : (opcField w).toNat = w.toNat / 2 ^ 28 := by
  simp only [opcField, BitVec.extractLsb'_toNat, Nat.shiftRight_eq_div_pow]
  omega

theorem opcField_eq_iff (w : CommandWord) (opc : BitVec 4) : opcField w = opc ↔ w.toNat / 2 ^ 28 = opc.toNat := by
  rw [← BitVec.toNat_inj, opcField_toNat]

theorem opcField_and (w mask : CommandWord) : opcField (w &&& mask) = opcField w &&& opcField mask :=
  BitVec.extractLsb'_and

theorem pField_and (w mask : CommandWord) : pField (w &&& mask) = (pField w && pField mask) :=
  BitVec.getLsbD_and

theorem countField_and (w mask : CommandWord) : countField (w &&& mask) = countField w &&& countField mask :=
  BitVec.extractLsb'_and

theorem durField_and (w mask : CommandWord) : durField (w &&& mask) = durField w &&& durField mask :=
  BitVec.extractLsb'_and

/-! ### The fields of each format (R57, R58, R65) -/

@[simp] theorem opcField_formatS (p : Bool) (count : EventCount) : opcField (formatS p count) = 0x1#4 := by
  rw [formatS_eq_wordOf, opcField_wordOf]

@[simp] theorem pField_formatS (p : Bool) (count : EventCount) : pField (formatS p count) = p := by
  have hbit : pField (formatS p count) = (BitVec.ofBool p).getLsbD 0 := by
    rw [pField, formatS, BitVec.getLsbD_append, if_neg (by decide), BitVec.getLsbD_append, if_pos (by decide)]
  simpa using hbit

@[simp] theorem countField_formatS (p : Bool) (count : EventCount) : countField (formatS p count) = count :=
  BitVec.extractLsb'_append_eq_right

@[simp] theorem opcField_formatP (dur : Duration) : opcField (formatP dur) = 0x2#4 := by
  rw [formatP_eq_wordOf, opcField_wordOf]

@[simp] theorem durField_formatP (dur : Duration) : durField (formatP dur) = dur :=
  BitVec.extractLsb'_append_eq_right

@[simp] theorem opcField_formatRsvd (opc : BitVec 4) (imm28 : BitVec 28) : opcField (formatRsvd opc imm28) = opc :=
  opcField_wordOf opc imm28

@[simp] theorem imm28Field_formatRsvd (opc : BitVec 4) (imm28 : BitVec 28) :
    imm28Field (formatRsvd opc imm28) = imm28 :=
  imm28Field_wordOf opc imm28

@[simp] theorem formatRsvd_fields (w : CommandWord) : formatRsvd (opcField w) (imm28Field w) = w :=
  wordOf_fields w

/-! ### The decoder, by the opcode (R59) and by the select (R63) -/

section
variable {w : CommandWord}

theorem decodeCommand_nop (h : opcField w = 0x0#4) : decodeCommand w = .nop := by
  simp [decodeCommand, h]

theorem decodeCommand_start (h : opcField w = 0x1#4) : decodeCommand w = .start (pField w) (countField w) := by
  simp [decodeCommand, h]

theorem decodeCommand_pulse (h : opcField w = 0x2#4) : decodeCommand w = .pulse (durField w) := by
  simp [decodeCommand, h]

theorem decodeCommand_rsvd3 (h : opcField w = 0x3#4) : decodeCommand w = .rsvd3 (imm28Field w) := by
  simp [decodeCommand, h]

/-- From opcode 4 on, the decoder is past its first four rows. -/
theorem opcField_ne_of_four_le (h : 4 ≤ (opcField w).toNat) {opc : BitVec 4} (hopc : opc.toNat < 4) :
    opcField w ≠ opc := by
  rintro rfl
  omega

theorem decodeCommand_rsvd4to7 (h4 : 4 ≤ (opcField w).toNat) (h7 : (opcField w).toNat ≤ 7) :
    decodeCommand w = .rsvd4to7 (opcField w) (imm28Field w) := by
  simp [decodeCommand, opcField_ne_of_four_le h4, h7]

theorem decodeCommand_rsvd8toF (h : 8 ≤ (opcField w).toNat) :
    decodeCommand w = .rsvd8toF (opcField w) (imm28Field w) := by
  have h4 : 4 ≤ (opcField w).toNat := by omega
  simp [decodeCommand, opcField_ne_of_four_le h4, Nat.not_le.mpr h]

end

/-- All that a command word can be, by its opcode: the six rows leave no opcode out. -/
theorem decodeCommand_cases (w : CommandWord) :
    (opcField w = 0x0#4 ∧ decodeCommand w = .nop)
    ∨ (opcField w = 0x1#4 ∧ decodeCommand w = .start (pField w) (countField w))
    ∨ (opcField w = 0x2#4 ∧ decodeCommand w = .pulse (durField w))
    ∨ (opcField w = 0x3#4 ∧ decodeCommand w = .rsvd3 (imm28Field w))
    ∨ (4 ≤ (opcField w).toNat ∧ (opcField w).toNat ≤ 7
      ∧ decodeCommand w = .rsvd4to7 (opcField w) (imm28Field w))
    ∨ (8 ≤ (opcField w).toNat ∧ decodeCommand w = .rsvd8toF (opcField w) (imm28Field w)) := by
  have hrows : ∀ opc : BitVec 4, opc = 0x0#4 ∨ opc = 0x1#4 ∨ opc = 0x2#4 ∨ opc = 0x3#4
      ∨ (4 ≤ opc.toNat ∧ opc.toNat ≤ 7) ∨ 8 ≤ opc.toNat := by decide
  rcases hrows (opcField w) with h | h | h | h | ⟨h4, h7⟩ | h
  · exact .inl ⟨h, decodeCommand_nop h⟩
  · exact .inr (.inl ⟨h, decodeCommand_start h⟩)
  · exact .inr (.inr (.inl ⟨h, decodeCommand_pulse h⟩))
  · exact .inr (.inr (.inr (.inl ⟨h, decodeCommand_rsvd3 h⟩)))
  · exact .inr (.inr (.inr (.inr (.inl ⟨h4, h7, decodeCommand_rsvd4to7 h4 h7⟩))))
  · exact .inr (.inr (.inr (.inr (.inr ⟨h, decodeCommand_rsvd8toF h⟩))))

theorem decodeSelect_reserved : ∀ {rsel : Select}, 4 ≤ rsel.toNat → decodeSelect rsel = .rdR4toR7 rsel := by
  decide

/-! ### Encode, then decode -/

@[simp] theorem decodeCommand_formatS (p : Bool) (count : EventCount) :
    decodeCommand (formatS p count) = .start p count := by
  rw [decodeCommand_start (opcField_formatS p count), pField_formatS, countField_formatS]

@[simp] theorem decodeCommand_formatP (dur : Duration) : decodeCommand (formatP dur) = .pulse dur := by
  rw [decodeCommand_pulse (opcField_formatP dur), durField_formatP]

/-- Settles O12, by the instruction: its format's opcode or select chooses its row, and the fields are its operands. -/
theorem decodeEncode : Obligations.DecodeEncode := by
  intro i hwf
  cases i with
  | nop | rdHum | rdTemp | rdChk | rdStatus => rfl
  | start p count => exact decodeCommand_formatS p count
  | pulse dur => exact decodeCommand_formatP dur
  | rsvd3 imm28 => simp [encode, decode, decodeCommand_rsvd3]
  | rsvd4to7 opc imm28 =>
    simp only [Instr.wellFormed, Bool.and_eq_true, decide_eq_true_eq] at hwf
    simp [encode, decode, decodeCommand_rsvd4to7, hwf]
  | rsvd8toF opc imm28 =>
    simp only [Instr.wellFormed, decide_eq_true_eq] at hwf
    simp [encode, decode, decodeCommand_rsvd8toF, hwf]
  | rdR4toR7 rsel =>
    simp only [Instr.wellFormed, decide_eq_true_eq] at hwf
    exact decodeSelect_reserved hwf

/-- Settles O11. -/
theorem decodeWords : Obligations.DecodeWords := ⟨rfl, rfl, rfl, rfl, rfl, rfl, rfl, rfl, rfl, rfl, rfl, rfl, rfl⟩

/-! ### Decode: the opcode and the reserved bits (R59, R61) -/

/-- Settles O13, by the opcode's row; the operand fields are those parts of the word's number. -/
theorem decodeByOpcode : Obligations.DecodeByOpcode := by
  intro w
  refine ⟨fun h => decodeCommand_nop ((opcField_eq_iff w _).mpr h),
    fun h => decodeCommand_start ((opcField_eq_iff w _).mpr h),
    fun h => decodeCommand_pulse ((opcField_eq_iff w _).mpr h), fun h => ?_⟩
  rw [← opcField_toNat] at h
  rcases decodeCommand_cases w with ⟨h', -⟩ | ⟨h', -⟩ | ⟨h', -⟩ | ⟨-, hd⟩ | ⟨-, -, hd⟩ | ⟨-, hd⟩
  · simp [h'] at h
  · simp [h'] at h
  · simp [h'] at h
  all_goals
    rw [hd]
    rfl

/-- A step on a presented command sees of the word only what it decodes to. -/
theorem step_command_congr (s : State) {v w : CommandWord} (rest : List PortEvent)
    (h : decodeCommand v = decodeCommand w) :
    step { s with inputs := .edge false true v :: rest } = step { s with inputs := .edge false true w :: rest } :=
  congrArg (fun i => exec i (s.setInputs rest)) h

/-- A mask that keeps the opcode keeps the row. -/
theorem opcField_and_eq {w mask : CommandWord} {opc : BitVec 4} (hw : opcField w = opc)
    (hmask : opcField mask = 0xF#4) : opcField (w &&& mask) = opc := by
  rw [opcField_and, hw, hmask]
  exact BitVec.and_allOnes

/-- Settles O14: each mask keeps the opcode and the operand fields, and the decoder reads no other bits. -/
theorem reservedBitsIgnored : Obligations.ReservedBitsIgnored := by
  intro s w rest
  refine ⟨fun h => step_command_congr s rest ?_, fun h => step_command_congr s rest ?_,
    fun h => step_command_congr s rest ?_⟩
  · have hw : opcField w = 0x0#4 := (opcField_eq_iff w _).mpr h
    rw [decodeCommand_nop hw, decodeCommand_nop (opcField_and_eq hw rfl)]
  · have hw : opcField w = 0x1#4 := (opcField_eq_iff w _).mpr h
    have hp : pField (w &&& 0xF001FFFF#32) = pField w := (pField_and w _).trans (Bool.and_true _)
    have hcount : countField (w &&& 0xF001FFFF#32) = countField w := (countField_and w _).trans BitVec.and_allOnes
    rw [decodeCommand_start hw, decodeCommand_start (opcField_and_eq hw rfl), hp, hcount]
  · have hw : opcField w = 0x2#4 := (opcField_eq_iff w _).mpr h
    have hdur : durField (w &&& 0xF000FFFF#32) = durField w := (durField_and w _).trans BitVec.and_allOnes
    rw [decodeCommand_pulse hw, decodeCommand_pulse (opcField_and_eq hw rfl), hdur]

/-! ### The opcode table, and decode, then encode (R59, R63, R65) -/

/-- The row of a decoded command is its opcode's. -/
theorem commandRowOf_decodeCommand (w : CommandWord) :
    commandRowOf (decodeCommand w) =
      some (if (opcField w).toNat ≤ 3 then (opcField w).toNat else if (opcField w).toNat ≤ 7 then 4 else 5) := by
  rcases decodeCommand_cases w with ⟨h, hd⟩ | ⟨h, hd⟩ | ⟨h, hd⟩ | ⟨h, hd⟩ | ⟨h4, h7, hd⟩ | ⟨h8, hd⟩
  · simp [hd, h, commandRowOf]
  · simp [hd, h, commandRowOf]
  · simp [hd, h, commandRowOf]
  · simp [hd, h, commandRowOf]
  · rw [hd, if_neg (by omega), if_pos h7]; rfl
  · rw [hd, if_neg (by omega), if_neg (by omega)]; rfl

theorem selectRowOf_decodeSelect :
    ∀ r : Select, selectRowOf (decodeSelect r) = some (if r.toNat ≤ 3 then r.toNat else 4) := by
  decide

/-- Settles O15: a word stands in its opcode's row alone, a select in its own, and that row is the decoder's. -/
theorem oneRowForEachWord : Obligations.OneRowForEachWord := by
  constructor
  · intro w
    refine ⟨_, ?_, commandRowOf_decodeCommand w⟩
    rw [← rowsMatching_opcode, ← rowsMatching_wordOf _ (imm28Field w), wordOf_fields]
  · exact fun r => ⟨_, rowsMatching_select r, selectRowOf_decodeSelect r⟩

theorem decodeCommand_wellFormed (w : CommandWord) : (decodeCommand w).wellFormed = true := by
  rcases decodeCommand_cases w with ⟨-, hd⟩ | ⟨-, hd⟩ | ⟨-, hd⟩ | ⟨-, hd⟩ | ⟨h4, h7, hd⟩ | ⟨h8, hd⟩
  · simp [hd, Instr.wellFormed]
  · simp [hd, Instr.wellFormed]
  · simp [hd, Instr.wellFormed]
  · simp [hd, Instr.wellFormed]
  · simp [hd, Instr.wellFormed, h4, h7]
  · simp [hd, Instr.wellFormed, h8]

/-- RSVD keeps all 32 bits (R65); the commands that ignore some of theirs are no RSVD, and no command is a read. -/
theorem encode_decodeCommand {w : CommandWord}
    (h : isRsvd (decodeCommand w) = true ∨ isRead (decodeCommand w) = true) :
    encode (decodeCommand w) = .command w := by
  rcases decodeCommand_cases w with ⟨-, hd⟩ | ⟨-, hd⟩ | ⟨-, hd⟩ | ⟨hopc, hd⟩ | ⟨-, -, hd⟩ | ⟨-, hd⟩
  · simp [hd, isRsvd, isRead] at h
  · simp [hd, isRsvd, isRead] at h
  · simp [hd, isRsvd, isRead] at h
  · simp [hd, encode, ← hopc]
  · simp [hd, encode]
  · simp [hd, encode]

theorem decodeSelect_wellFormed : ∀ r : Select, (decodeSelect r).wellFormed = true := by
  decide

theorem encode_decodeSelect : ∀ r : Select, encode (decodeSelect r) = .select r := by
  decide

/-- Settles O16, by the port. -/
theorem decodedIsWellFormed : Obligations.DecodedIsWellFormed := by
  intro pw
  cases pw with
  | command w => exact ⟨decodeCommand_wellFormed w, encode_decodeCommand⟩
  | select r => exact ⟨decodeSelect_wellFormed r, fun _ => encode_decodeSelect r⟩

end Sys2Proof.Machine
end

section
/-! SUPPORT. The assembler's words (R65, R66), and the statements of the encoding family about lines. -/

namespace Sys2Proof.Machine

/-! ### The formats as numbers (R57, R58, R65) -/

theorem formatS_toNat (p : Bool) (count : EventCount) :
    (formatS p count).toNat = 0x10000000 + p.toNat * 2 ^ 16 + count.toNat := by
  simp only [formatS, toNat_append_eq_add, BitVec.toNat_ofNat, BitVec.toNat_ofBool]
  omega

theorem formatP_toNat (dur : Duration) : (formatP dur).toNat = 0x20000000 + dur.toNat := by
  simp only [formatP, toNat_append_eq_add, BitVec.toNat_ofNat]
  omega

theorem formatRsvd_toNat (opc : BitVec 4) (imm28 : BitVec 28) :
    (formatRsvd opc imm28).toNat = opc.toNat * 2 ^ 28 + imm28.toNat := by
  rw [formatRsvd, toNat_append_eq_add, Nat.mul_comm]

/-! ### The words of each line with operands in range (R65) -/

/-- A word of which the number is known. -/
theorem command_eq_of_toNat {w : CommandWord} {n : Nat} (h : w.toNat = n) :
    PortWord.command w = .command (BitVec.ofNat 32 n) := by
  rw [← h, BitVec.ofNat_toNat, BitVec.setWidth_eq]

theorem asmStart_eq {p count : Nat} (hp : p ≤ 1) (hc : count ≤ 65535) :
    asmStart p count = .command (BitVec.ofNat 32 (0x10000000 + p * 2 ^ 16 + count)) := by
  have hbit : (p == 1).toNat = p := by interval_cases p <;> rfl
  have hcount : count % 2 ^ 16 = count := Nat.mod_eq_of_lt (by omega)
  exact command_eq_of_toNat (by rw [formatS_toNat, hbit, BitVec.toNat_ofNat, hcount])

theorem asmPulse_eq {dur : Nat} (h : dur ≤ 65535) :
    asmPulse dur = .command (BitVec.ofNat 32 (0x20000000 + dur)) := by
  have hdur : dur % 2 ^ 16 = dur := Nat.mod_eq_of_lt (by omega)
  exact command_eq_of_toNat (by rw [formatP_toNat, BitVec.toNat_ofNat, hdur])

/-- The three rows of RSVD have one format. -/
theorem asmRsvd_eq_formatRsvd (opc imm28 : Nat) :
    asmRsvd opc imm28 = .command (formatRsvd (BitVec.ofNat 4 opc) (BitVec.ofNat 28 imm28)) := by
  unfold asmRsvd
  split
  · next h => rw [h]; rfl
  · split <;> rfl

theorem asmRsvd_eq {opc imm28 : Nat} (ho : opc ≤ 15) (hi : imm28 < 2 ^ 28) :
    asmRsvd opc imm28 = .command (BitVec.ofNat 32 (opc * 2 ^ 28 + imm28)) := by
  have hopc : opc % 2 ^ 4 = opc := Nat.mod_eq_of_lt (by omega)
  have himm : imm28 % 2 ^ 28 = imm28 := Nat.mod_eq_of_lt hi
  rw [asmRsvd_eq_formatRsvd]
  exact command_eq_of_toNat (by rw [formatRsvd_toNat, BitVec.toNat_ofNat, BitVec.toNat_ofNat, hopc, himm])

/-- Settles O56: a line with its operands in range is its format's number, and each guard is the statement's own. -/
theorem assemblerWords : Obligations.AssemblerWords := by
  intro P x y
  refine ⟨rfl, ite_congr rfl ?_ fun _ => rfl, ite_congr rfl ?_ fun _ => rfl, ite_congr rfl ?_ fun _ => rfl, rfl⟩
  · exact fun ⟨hp, hc⟩ => by rw [asmStart_eq hp hc]
  · exact fun h => by rw [asmPulse_eq h]
  · exact fun ⟨_, ho, hi⟩ => by rw [asmRsvd_eq ho hi]

/-! ### Saturation and the build's own operands (R5, R60, R66) -/

theorem saturate16_toNat (n : Nat) : (saturate16 n).toNat = min n 65535 := by
  simp only [saturate16, BitVec.toNat_ofNat]
  omega

/-- Settles O54: `MIN_EVENTS` is at most 65535, the value at which the count saturates. -/
theorem saturatedCount : Obligations.SaturatedCount := by
  intro P n
  have := P.minEvents.isLt
  simp only [countQualifies, decide_eq_true_eq, saturate16_toNat]
  omega

/-- A parameter fits an operand (R5). -/
theorem toNat_ofNat_param (x : Fin 65536) : (BitVec.ofNat 16 x.val).toNat = x.val :=
  Nat.mod_eq_of_lt x.isLt

/-- `LONG_REF` is in the middle of its band (R75). -/
theorem classify_longRef (P : Params) : classify P (BitVec.ofNat 16 P.longRef.val) = true := by
  simp only [classify, toNat_ofNat_param, decide_eq_true_eq]
  omega

theorem qualifies_minEvents (P : Params) : Qualifies P true (BitVec.ofNat 16 P.minEvents.val) :=
  ⟨rfl, (toNat_ofNat_param P.minEvents).ge⟩

theorem decode_asmBit0 : decode asmBit0 = .pulse 25#16 :=
  decodeCommand_formatP _

theorem decode_asmBit1 (P : Params) : decode (asmBit1 P) = .pulse (BitVec.ofNat 16 P.longRef.val) :=
  decodeCommand_formatP _

theorem assembleLine_frameBits {P : Params} {v : Nat} (h : v < 2 ^ 40) :
    assembleLine P (.frameBits v) = .ok (asmFrameBits P v) :=
  if_pos h

/-- Settles O57, each pseudo-command by the line that it stands for. -/
theorem pseudoCommands : Obligations.PseudoCommands := by
  refine ⟨fun P => ?_, fun P v => ⟨fun hv => ?_, fun hv => if_neg (Nat.not_lt.mpr hv)⟩, by decide, rfl, rfl⟩
  · exact ⟨BitVec.ofNat 16 P.longRef.val, BitVec.ofNat 16 P.minEvents.val,
      rfl, rfl, decode_asmBit0,
      rfl, decode_asmBit1 P, toNat_ofNat_param P.longRef, classify_longRef P,
      rfl, rfl,
      rfl, toNat_ofNat_param P.minEvents, qualifies_minEvents P⟩
  · refine ⟨asmFrameBits P v, assembleLine_frameBits hv, by simp [asmFrameBits], fun i hi => ?_⟩
    simp [asmFrameBits]

end Sys2Proof.Machine
end

section
/-! SUPPORT. An attempt by the bits that it has taken (R77 to R79, R81), and the statement of the encoding family that
runs one. -/

namespace Sys2Proof.Machine

/-! ### The frame of a list of bits (R77) -/

/-- The frame that holds the latest 40 of the bits, the last one in bit 0 (R77). -/
def frameOf (bits : List Bool) : FrameWord := (BitVec.ofBoolListBE bits).setWidth 40

theorem frameOf_getLsbD (bits : List Bool) (k : Nat) :
    (frameOf bits).getLsbD k
      = (decide (k < 40) && (decide (k < bits.length) && bits.getD (bits.length - 1 - k) false)) := by
  simp [frameOf, BitVec.getLsbD_setWidth]

/-- One bit more is one shift more. -/
theorem shiftIn_frameOf (bits : List Bool) (b : Bool) : shiftIn (frameOf bits) b = frameOf (bits ++ [b]) := by
  apply BitVec.eq_of_getLsbD_eq
  intro k hk
  cases k with
  | zero =>
    rw [shiftIn_getLsbD_zero, frameOf_getLsbD]
    simp
  | succ k =>
    rw [shiftIn_getLsbD_succ, frameOf_getLsbD, frameOf_getLsbD]
    by_cases hlen : k < bits.length
    · have hold : (bits ++ [b]).getD ((bits ++ [b]).length - 1 - (k + 1)) false
          = bits.getD (bits.length - 1 - k) false := by
        rw [List.length_append, List.length_singleton, List.getD_append _ _ _ _ (by omega)]
        congr 1
        omega
      rw [hold]
      simp [hlen, hk, show k < 39 by omega, show k < 40 by omega]
    · simp [hlen]

/-! ### An attempt in progress, and its end (R78, R79) -/

/-- What an attempt is after the START that opened it and the pulses of `bits`, at most 40 (R26, R78, R79). -/
structure Arch.HasTaken (a : Arch) (bits : List Bool) : Prop where
  frame : a.frame = frameOf bits
  bitcnt : a.bitcnt.val = bits.length
  phase : a.phase = if bits.length = 40 then .done else .accum
  result : a.result = if bits.length = 40 then verdict a.frame else .none

theorem Arch.HasTaken.setProtoErr {a : Arch} {bits : List Bool} (h : a.HasTaken bits) :
    a.setProtoErr.HasTaken bits :=
  ⟨h.frame, h.bitcnt, h.phase, h.result⟩

/-- A qualifying START opens an attempt that has taken no bit (R115). -/
theorem startAttempt_hasTaken {P : Params} {p : Bool} {count : EventCount} (hq : Qualifies P p count) (a : Arch) :
    (startAttempt P p count a).HasTaken [] := by
  obtain ⟨rfl, hc⟩ := hq
  rw [startAttempt_qualifies hc]
  exact ⟨rfl, rfl, rfl, rfl⟩

/-- Below 40 bits the accumulator takes the pulse's bit; the 40th also ends the attempt (R78). -/
theorem accumulate_hasTaken {P : Params} {a : Arch} {bits : List Bool} (h : a.HasTaken bits)
    (hlen : bits.length < 40) (dur : Duration) :
    ∃ b, accumulate P dur a = some b ∧ b.HasTaken (bits ++ [classify P dur]) := by
  obtain ⟨hframe, hcount, hphase, hresult⟩ := h
  rcases accumulate_cases P dur a with ⟨hc, hb⟩ | ⟨hc, hb⟩ | ⟨hc, -⟩
  · have hne : bits.length ≠ 39 := by omega
    rw [if_neg (by omega)] at hphase hresult
    exact ⟨_, hb, by simp [hframe, shiftIn_frameOf], by simp [hcount], by simp [hphase, hne], by simp [hresult, hne]⟩
  · have h39 : bits.length = 39 := by omega
    exact ⟨_, hb, by simp [hframe, shiftIn_frameOf], by simp [h39], by simp [h39], by simp [h39]⟩
  · omega

/-- The bits that the pulses of a command stream give (R75). -/
def bitsOf (P : Params) (body : List Instr) : List Bool := (durationsOf body).map (classify P)

theorem bitsOf_cons (P : Params) (i : Instr) (body : List Instr) :
    bitsOf P (i :: body) = bitsOf P [i] ++ bitsOf P body := by
  cases i <;> rfl

/-- Every instruction but START completes in an attempt, and adds the bit of its pulse, while there is room (R79). -/
theorem exec_hasTaken {i : Instr} {s : State} {bits : List Bool} (hl : s.launch = .live) (hi : isStart i = false)
    (h : s.arch.HasTaken bits) (hroom : (bits ++ bitsOf s.params [i]).length ≤ 40) :
    ∃ t, exec i s = .next t ∧ t.arch.HasTaken (bits ++ bitsOf s.params [i]) := by
  cases i with
  | start => simp [isStart] at hi
  | nop | rdHum | rdTemp | rdChk | rdStatus | rdR4toR7 =>
    exact ⟨_, ifLive_live hl _, by simpa [bitsOf, durationsOf] using h⟩
  | pulse dur =>
    have hlen : bits.length < 40 := by simpa [bitsOf, durationsOf] using hroom
    have hphase : s.arch.phase = .accum := by rw [h.phase, if_neg (by omega)]
    obtain ⟨b, hb, hbits⟩ := accumulate_hasTaken h hlen dur
    exact ⟨_, exec_pulse_taken hl hphase hb, hbits⟩
  | rsvd3 | rsvd4to7 | rsvd8toF =>
    exact ⟨_, ifLive_live hl _, by simpa [bitsOf, durationsOf] using h.setProtoErr⟩

/-- A command stream with no START adds the bits of its pulses, while there is room (R79, R81). -/
theorem execAll_hasTaken {body : List Instr} {s : State} {bits : List Bool} (hl : s.launch = .live)
    (hbody : body.any isStart = false) (h : s.arch.HasTaken bits)
    (hroom : (bits ++ bitsOf s.params body).length ≤ 40) :
    ∃ t, execAll body s = .next t ∧ t.arch.HasTaken (bits ++ bitsOf s.params body) := by
  induction body generalizing s bits with
  | nil => exact ⟨s, rfl, by simpa [bitsOf, durationsOf] using h⟩
  | cons i is ih =>
    simp only [List.any_cons, Bool.or_eq_false_iff] at hbody
    obtain ⟨hi, his⟩ := hbody
    rw [bitsOf_cons, ← List.append_assoc] at hroom ⊢
    obtain ⟨u, hu, hbits⟩ := exec_hasTaken hl hi h (by rw [List.length_append] at hroom; omega)
    rw [← exec_params hu] at hbits hroom ⊢
    obtain ⟨t, ht, htaken⟩ := ih ((exec_launch hu).trans hl) his hbits hroom
    exact ⟨t, by rw [execAll, hu]; exact ht, htaken⟩

/-- The run of an attempt: a qualifying START, then a stream with no START and at most 40 pulses (R79, R81). -/
theorem execAll_attempt {s : State} {p : Bool} {count : EventCount} {body : List Instr} (hl : s.launch = .live)
    (hq : Qualifies s.params p count) (hbody : body.any isStart = false) (hroom : (durationsOf body).length ≤ 40) :
    ∃ t, execAll (.start p count :: body) s = .next t ∧ t.arch.HasTaken (bitsOf s.params body) := by
  have hstart : exec (.start p count) s = .next (s.setArch (startAttempt s.params p count s.arch)) := ifLive_live hl _
  obtain ⟨t, ht, htaken⟩ := execAll_hasTaken (s := s.setArch (startAttempt s.params p count s.arch)) hl hbody
    (startAttempt_hasTaken hq s.arch) (by simpa [bitsOf] using hroom)
  exact ⟨t, by rw [execAll, hstart]; exact ht, htaken⟩

/-! ### FRAMEBITS (R66) -/

/-- The duration that the pseudo-command of a bit sends. -/
def bitDuration (P : Params) (b : Bool) : Duration := if b then BitVec.ofNat 16 P.longRef.val else 25#16

/-- The bits that FRAMEBITS sends, in its order. -/
def bitsBE (v : Nat) : List Bool := (List.range 40).map fun i => v.testBit (39 - i)

/-- The pulses that send bits. -/
def sendBits (P : Params) (bits : List Bool) : List Instr := bits.map fun b => .pulse (bitDuration P b)

theorem decode_asmFrameBits (P : Params) (v : Nat) : (asmFrameBits P v).map decode = sendBits P (bitsBE v) := by
  simp only [asmFrameBits, sendBits, bitsBE, List.map_map]
  apply List.map_congr_left
  intro i _
  cases h : v.testBit (39 - i) with
  | true => simpa [h, bitDuration] using decode_asmBit1 P
  | false => simpa [h, bitDuration] using decode_asmBit0

theorem durationsOf_sendBits (P : Params) (bits : List Bool) :
    durationsOf (sendBits P bits) = bits.map (bitDuration P) := by
  induction bits with
  | nil => rfl
  | cons b bs ih => exact congrArg (bitDuration P b :: ·) ih

theorem any_isStart_sendBits (P : Params) (bits : List Bool) : (sendBits P bits).any isStart = false := by
  simp [sendBits, isStart]

/-- Where the band does not hold 25, the pulses sent are classified as the bits meant. -/
theorem bitsOf_sendBits {P : Params} (h : classify P 25#16 = false) (bits : List Bool) :
    bitsOf P (sendBits P bits) = bits := by
  have hbit : ∀ b, classify P (bitDuration P b) = b
    | true => classify_longRef P
    | false => h
  simp [bitsOf, durationsOf_sendBits, Function.comp_def, hbit]

@[simp] theorem length_bitsBE (v : Nat) : (bitsBE v).length = 40 := by
  simp [bitsBE]

/-- The 40 bits sent are the frame's. -/
theorem frameOf_bitsBE (v : Nat) : frameOf (bitsBE v) = BitVec.ofNat 40 v := by
  apply BitVec.eq_of_getLsbD_eq
  intro k hk
  have hget : (bitsBE v).getD (40 - 1 - k) false = v.testBit k := by
    rw [List.getD_eq_getElem _ _ (by rw [length_bitsBE]; omega)]
    simp only [bitsBE, List.getElem_map, List.getElem_range]
    congr 1
    omega
  rw [frameOf_getLsbD, length_bitsBE, hget, BitVec.getLsbD_ofNat]
  simp [hk]

/-- Settles O58: BEGIN's START qualifies, and FRAMEBITS is an attempt's 40 pulses, of the bits of `v`. -/
theorem frameBitsSendsTheFrame : Obligations.FrameBitsSendsTheFrame := by
  intro s v start bits hl hv h25 hstart hbits
  obtain rfl : [asmStart 1 s.params.minEvents.val] = start := by simpa [assembleLine] using hstart
  obtain rfl : asmFrameBits s.params v = bits := by simpa [assembleLine_frameBits hv] using hbits
  have hbegin : decode (asmStart 1 s.params.minEvents.val) = .start true (BitVec.ofNat 16 s.params.minEvents.val) :=
    decodeCommand_formatS _ _
  obtain ⟨t, ht, htaken⟩ := execAll_attempt hl (qualifies_minEvents s.params)
    (any_isStart_sendBits s.params (bitsBE v)) (by simp [durationsOf_sendBits])
  rw [bitsOf_sendBits h25] at htaken
  refine ⟨t, ?_, ?_, htaken.frame.trans (frameOf_bitsBE v)⟩
  · rw [List.map_append, decode_asmFrameBits, List.map_singleton, hbegin]
    exact ht
  · rw [htaken.phase, length_bitsBE, if_pos rfl]

end Sys2Proof.Machine
end

section
/-! SUPPORT. The classifier and the accumulator as numbers, what HasTaken says of an attempt short of 40 pulses and of a
whole one, and the statements of the frame-decoder family. -/

namespace Sys2Proof.Machine

/-! ### The classifier (R75, R82) -/

theorem classify_iff (P : Params) (d : Duration) : classify P d = true ↔
    (P.longRef.val : Int) - (P.tol.val : Int) ≤ (d.toNat : Int)
      ∧ (d.toNat : Int) ≤ (P.longRef.val : Int) + (P.tol.val : Int) :=
  decide_eq_true_iff

/-- Settles O17: under the defaults the band is 70 - 5 to 70 + 5. -/
theorem classifyBand : Obligations.ClassifyBand := by
  refine ⟨classify_iff, fun d => ?_⟩
  have hlong : Params.default.longRef.val = 70 := rfl
  have htol : Params.default.tol.val = 5 := rfl
  rw [classify_iff, hlong, htol]
  omega

/-- A duration above the band is no 1 (R75). -/
theorem classify_eq_false_of_lt {P : Params} {d : Duration} (h : P.longRef.val + P.tol.val < d.toNat) :
    classify P d = false := by
  rw [← Bool.not_eq_true, classify_iff]
  omega

/-- Settles O55: the duration saturates at 65535, which is above the band. -/
theorem saturatedDuration : Obligations.SaturatedDuration := by
  intro P n hband hn
  have hsat : (saturate16 n).toNat = 65535 := by
    rw [saturate16_toNat]
    omega
  exact ⟨classify_eq_false_of_lt (by omega), by omega⟩

/-! ### The accumulator and PULSE (R77, R78) -/

/-- Settles O18: dropping bit 39 before the doubling is reducing modulo 2^40 after it. The name `shiftIn` is the
function's own. -/
theorem shiftIn_toNat_eq_mod : Obligations.ShiftIn := by
  intro F b
  have hb := b.toNat_lt
  rw [shiftIn_toNat]
  omega

/-- Settles O19, by the cases of the accumulator; outside ACCUM the pulse is dropped and flagged. -/
theorem pulseEffect : Obligations.PulseEffect := by
  intro s dur hl
  refine ⟨fun hp hc => ?_, fun hp hc => ?_, exec_pulse_dropped hl⟩
  · rcases accumulate_cases s.params dur s.arch with ⟨_, ha⟩ | ⟨h39, -⟩ | ⟨h40, -⟩
    · exact ⟨_, rfl, exec_pulse_taken hl hp ha⟩
    · omega
    · omega
  · rcases accumulate_cases s.params dur s.arch with ⟨hlt, -⟩ | ⟨-, ha⟩ | ⟨h40, -⟩
    · omega
    · exact exec_pulse_taken hl hp ha
    · omega

/-! ### The frame of a list of bits (R77) -/

/-- The frame of n bits is below 2^n (R26 (b)). -/
theorem frameOf_toNat_lt (bits : List Bool) : (frameOf bits).toNat < 2 ^ bits.length := by
  rw [frameOf, BitVec.toNat_setWidth]
  exact (Nat.mod_le _ _).trans_lt (BitVec.isLt _)

/-- The frame holds the bits in the order they came, the last one in bit 0. -/
theorem frameOf_getLsbD_rev {bits : List Bool} (hlen : bits.length ≤ 40) {j : Nat} (hj : j < bits.length) :
    (frameOf bits).getLsbD (bits.length - 1 - j) = bits[j] := by
  have hrev : bits.length - 1 - (bits.length - 1 - j) = j := by omega
  have hwidth : bits.length - 1 - j < 40 := by omega
  have hlength : bits.length - 1 - j < bits.length := by omega
  rw [frameOf_getLsbD, hrev, List.getD_eq_getElem _ _ hj]
  simp [hwidth, hlength]

@[simp] theorem length_bitsOf (P : Params) (body : List Instr) :
    (bitsOf P body).length = (durationsOf body).length := by
  simp [bitsOf]

/-- Pulse j of a command stream with at most 40 is bit n - 1 - j of its frame of n bits (R79, R81). -/
theorem frameOf_bitsOf_getLsbD {P : Params} {body : List Instr} (hlen : (durationsOf body).length ≤ 40) {j : Nat}
    (hj : j < (durationsOf body).length) :
    (frameOf (bitsOf P body)).getLsbD ((durationsOf body).length - 1 - j) = classify P (durationsOf body)[j] := by
  have hbit := frameOf_getLsbD_rev (bits := bitsOf P body) (by simpa using hlen) (by simpa using hj)
  simpa [bitsOf] using hbit

/-! ### An attempt by the bits taken -/

/-- Below 40 pulses the attempt is open (R81). -/
theorem Arch.HasTaken.phase_of_short {a : Arch} {bits : List Bool} (h : a.HasTaken bits) (hlen : bits.length < 40) :
    a.phase = .accum := by
  rw [h.phase, if_neg (by omega)]

theorem Arch.HasTaken.result_of_short {a : Arch} {bits : List Bool} (h : a.HasTaken bits) (hlen : bits.length < 40) :
    a.result = .none := by
  rw [h.result, if_neg (by omega)]

/-- The bits taken determine every element but PROTO_ERR. -/
theorem Arch.HasTaken.unique {a b : Arch} {bits : List Bool} (ha : a.HasTaken bits) (hb : b.HasTaken bits) :
    a.frame = b.frame ∧ a.result = b.result ∧ a.phase = b.phase ∧ a.bitcnt = b.bitcnt := by
  have hframe : a.frame = b.frame := ha.frame.trans hb.frame.symm
  refine ⟨hframe, ?_, ha.phase.trans hb.phase.symm, Fin.ext (ha.bitcnt.trans hb.bitcnt.symm)⟩
  rw [ha.result, hb.result, hframe]

/-- No attempt that is open shows a valid reading (R107). -/
theorem Arch.valid_of_accum {a : Arch} (h : a.phase = .accum) : a.valid = false := by
  simp [Arch.valid, h]

/-- The port of a live core shows its five elements (R107). -/
theorem State.resultPort_live {s : State} (hl : s.launch = .live) : s.resultPort = some s.arch.resultPort := by
  simp [State.resultPort, hl]

theorem execAll_cons_next {i : Instr} {is : List Instr} {s t : State} :
    execAll (i :: is) s = .next t ↔ ∃ u, exec i s = .next u ∧ execAll is u = .next t := by
  rw [execAll]
  cases exec i s <;> simp

/-- No command stream undoes the first reset. -/
theorem execAll_launch {is : List Instr} {s t : State} (h : execAll is s = .next t) : t.launch = s.launch := by
  induction is generalizing s with
  | nil =>
    cases h
    rfl
  | cons i is ih =>
    obtain ⟨u, hu, ht⟩ := execAll_cons_next.mp h
    exact (ih ht).trans (exec_launch hu)

/-! ### The statements about attempts (R79 to R81) -/

/-- Settles O21, by the bits that the 40 pulses give. -/
theorem frameInCaptureOrder : Obligations.FrameInCaptureOrder := by
  intro s p count body hl hattempt
  obtain ⟨hq, hbody, h40⟩ := hattempt
  obtain ⟨t, ht, htaken⟩ := execAll_attempt hl hq hbody h40.le
  refine ⟨t, ht, ?_, ?_, fun i hi => ?_⟩
  · rw [htaken.phase, length_bitsOf, if_pos h40]
  · rw [htaken.bitcnt, length_bitsOf, h40]
  · rw [htaken.frame, ← frameOf_bitsOf_getLsbD h40.le hi, h40]

/-- Settles O22, by the bits that the pulses give, fewer than 40. -/
theorem shortAttemptStaysOpen : Obligations.ShortAttemptStaysOpen := by
  intro s p count body hl hq hbody h39
  obtain ⟨t, ht, htaken⟩ := execAll_attempt hl hq hbody (by omega)
  have hshort : (bitsOf s.params body).length < 40 := by
    rw [length_bitsOf]
    omega
  have hcount : t.arch.bitcnt.val = (durationsOf body).length := htaken.bitcnt.trans (length_bitsOf _ _)
  have hphase : t.arch.phase = .accum := htaken.phase_of_short hshort
  refine ⟨t, ht, hphase, htaken.result_of_short hshort, hcount, ?_, fun j hj => ?_, t.arch.resultPort,
    State.resultPort_live ((execAll_launch ht).trans hl), Arch.valid_of_accum hphase⟩
  · rw [htaken.bitcnt, htaken.frame]
    exact frameOf_toNat_lt _
  · rw [hcount, htaken.frame]
    exact frameOf_bitsOf_getLsbD (by omega) hj

/-- Settles O23: both attempts take the same bits, and those determine all but PROTO_ERR. -/
theorem attemptsAreIndependent : Obligations.AttemptsAreIndependent := by
  intro s₁ s₂ p₁ p₂ c₁ c₂ body₁ body₂ hl₁ hl₂ hparams hattempt₁ hattempt₂ hdur
  obtain ⟨hq₁, hbody₁, hlen₁⟩ := hattempt₁
  obtain ⟨hq₂, hbody₂, hlen₂⟩ := hattempt₂
  obtain ⟨t₁, ht₁, htaken₁⟩ := execAll_attempt hl₁ hq₁ hbody₁ hlen₁.le
  obtain ⟨t₂, ht₂, htaken₂⟩ := execAll_attempt hl₂ hq₂ hbody₂ hlen₂.le
  have hbits : bitsOf s₁.params body₁ = bitsOf s₂.params body₂ := by
    rw [bitsOf, bitsOf, hparams, hdur]
  rw [hbits] at htaken₁
  exact ⟨t₁, t₂, ht₁, ht₂, htaken₁.unique htaken₂⟩

end Sys2Proof.Machine
end

section
/-! SUPPORT. The checksum as arithmetic on the frame's number, the moves that write a verdict, the ports of a live core,
and the statements of the checksum family. -/

namespace Sys2Proof.Machine

/-! ### The sum and the check (R10, R90, R91) -/

theorem byteOf_toNat (F : FrameWord) (k : Nat) : (byteOf F k).toNat = F.toNat / 2 ^ (8 * k) % 256 := by
  simp [byteOf, Nat.shiftRight_eq_div_pow]

/-- Settles O25: the frame has 40 bits, so the number of its top byte needs no reduction. -/
theorem sumModulo256 : Obligations.SumModulo256 := by
  intro F
  have htop : F.toNat / 2 ^ 32 % 256 = F.toNat / 2 ^ 32 := by
    have hF := F.isLt
    omega
  simp only [checksum_toNat, byteOf_toNat, Nat.reduceMul, htop]

/-- The check compares two bytes as numbers (R91). -/
theorem chkOk_iff (F : FrameWord) : chkOk F = true ↔ (checksum F).toNat = (byteOf F 0).toNat := by
  rw [chkOk, beq_iff_eq, BitVec.toNat_inj]

/-- Settles O26, from the sum and the checksum byte as numbers. -/
theorem checkAgainstByteZero : Obligations.CheckAgainstByteZero := by
  intro F
  have hbyte : (byteOf F 0).toNat = F.toNat % 256 := by simp [byteOf_toNat]
  rw [chkOk_iff, sumModulo256 F, hbyte]

/-! ### The moves that write a verdict (R92, R133) -/

/-- RESULT holds one of the two codes that a checksum decides (R92). -/
def Arch.HasVerdict (a : Arch) : Prop := a.result = .ok ∨ a.result = .checksumMismatch

/-- No START leaves a verdict (R115). -/
theorem startAttempt_not_hasVerdict (P : Params) (p : Bool) (count : EventCount) (a : Arch) :
    ¬ (startAttempt P p count a).HasVerdict := by
  rcases startAttempt_cases P p count a with ⟨-, h⟩ | ⟨-, -, h⟩ | ⟨-, -, h⟩ <;> rw [h] <;> simp [Arch.HasVerdict]

/-- A pulse taken with no outcome yet leaves a verdict only as the 40th, and then over the frame that it completes. -/
theorem accumulate_hasVerdict {P : Params} {dur : Duration} {a b : Arch} (hnone : a.result = .none)
    (h : accumulate P dur a = some b) (hb : b.HasVerdict) : a.bitcnt.val = 39 ∧ b.result = verdict b.frame := by
  rcases accumulate_cases P dur a with ⟨_, ha⟩ | ⟨h39, ha⟩ | ⟨_, ha⟩
  · cases ha.symm.trans h
    simp [Arch.HasVerdict, hnone] at hb
  · cases ha.symm.trans h
    exact ⟨h39, rfl⟩
  · cases ha.symm.trans h

/-- A move that leaves a verdict found it, or is the 40th pulse. -/
theorem CoreMove.hasVerdict {P : Params} {a b : Arch} {i : Instr} (m : CoreMove P a i b) (ha : a.Reachable)
    (hb : b.HasVerdict) :
    (b.result = a.result ∧ b.frame = a.frame)
      ∨ ((∃ dur, i = .pulse dur) ∧ a.phase = .accum ∧ a.bitcnt.val = 39 ∧ b.result = verdict b.frame) := by
  cases m with
  | keep => exact .inl ⟨rfl, rfl⟩
  | breach => exact .inl ⟨rfl, rfl⟩
  | start p count => exact absurd hb (startAttempt_not_hasVerdict P p count a)
  | pulse dur b hp hacc =>
    obtain ⟨-, hopen, -⟩ := ha
    obtain ⟨-, hnone, -⟩ := hopen hp
    exact .inr ⟨⟨dur, rfl⟩, hp, accumulate_hasVerdict hnone hacc hb⟩

/-- Settles O27, by the move that the instruction makes on the five elements. -/
theorem verdictOnFortiethPulse : Obligations.VerdictOnFortiethPulse := by
  intro i s t h hverdict hs
  obtain ⟨hl, hmove, -, -⟩ := exec_next h
  rcases hmove.hasVerdict (hs hl) hverdict with hkept | ⟨hpulse, hp, h39, hresult⟩
  · exact .inl hkept
  · exact .inr ⟨hpulse, hp, h39, by rw [hresult, verdict_ok_iff]⟩

/-! ### The ports of a live core (R101, R107) -/

theorem State.rdata_live {s : State} (hl : s.launch = .live) (rsel : Select) :
    s.rdata rsel = some (s.arch.readPort rsel) := by
  simp [State.rdata, hl]

/-- Without a valid reading the result port shows no fields (R107). -/
theorem Arch.resultPort_of_not_valid {a : Arch} (h : a.valid = false) :
    a.resultPort.valid = false ∧ a.resultPort.humidity = 0#16 ∧ a.resultPort.temperature = 0#16 := by
  simp [Arch.resultPort, h]

/-- Settles O28: the 40th pulse writes the mismatch with its frame; the raw reads show that frame, and the result port
gates it. -/
theorem mismatchKeepsFrame : Obligations.MismatchKeepsFrame := by
  intro s dur hl hp hc hchk
  obtain ⟨-, hfortieth, -⟩ := pulseEffect s dur hl
  have hexec := hfortieth hp hc
  simp only [hchk, Bool.false_eq_true, if_false] at hexec
  have hlive := (exec_launch hexec).trans hl
  exact ⟨_, hexec, rfl, State.rdata_live hlive 0#3, State.rdata_live hlive 1#3, State.rdata_live hlive 2#3, _,
    State.resultPort_live hlive, Arch.resultPort_of_not_valid rfl⟩

end Sys2Proof.Machine
end

section
/-! SUPPORT. The slices of the frame as numbers, what the invariant says of the frame and of VALID, each read by its
select, and the statements of the field-slice family. -/

namespace Sys2Proof.Machine

/-! ### The slices (R100, R109) -/

theorem temp_toNat (F : FrameWord) : (temp F).toNat = F.toNat / 2 ^ 8 % 2 ^ 16 := by
  simp [temp, Nat.shiftRight_eq_div_pow]

theorem chkb_toNat (F : FrameWord) : (chkb F).toNat = F.toNat % 2 ^ 8 := by
  simp [chkb]

/-- The frame has 40 bits, so its top slice needs no reduction. -/
theorem hum_toNat (F : FrameWord) : (hum F).toNat = F.toNat / 2 ^ 24 := by
  have hF := F.isLt
  simp only [hum, BitVec.extractLsb'_toNat, Nat.shiftRight_eq_div_pow]
  omega

/-- Bit `k` of the temperature is bit `8 + k` of the frame (R108). -/
theorem temp_getLsbD {k : Nat} (hk : k < 16) (F : FrameWord) : (temp F).getLsbD k = F.getLsbD (8 + k) := by
  simp [temp, hk]

/-- Settles O29. -/
theorem slices : Obligations.Slices := fun F => ⟨hum_toNat F, temp_toNat F, chkb_toNat F⟩

/-- A frame put together from three fields, as a number. -/
theorem toNat_fields (h t : BitVec 16) (c : BitVec 8) :
    (h ++ t ++ c).toNat = 2 ^ 24 * h.toNat + 2 ^ 8 * t.toNat + c.toNat := by
  simp only [toNat_append_eq_add]
  omega

/-- Each slice of a frame put together from three fields is its own field: no field reaches into the next. -/
theorem slices_append (h t : BitVec 16) (c : BitVec 8) :
    hum (h ++ t ++ c) = h ∧ temp (h ++ t ++ c) = t ∧ chkb (h ++ t ++ c) = c := by
  have ht := t.isLt
  have hc := c.isLt
  simp only [← BitVec.toNat_inj, hum_toNat, temp_toNat, chkb_toNat, toNat_fields]
  omega

/-- RD CHK's word as a number: the computed sum above the received byte (R104). -/
theorem chkWord_toNat (F : FrameWord) : (chkWord F).toNat = 2 ^ 8 * (checksum F).toNat + (chkb F).toNat :=
  toNat_append_eq_add _ _

/-- The two halves of RD CHK's word are equal exactly when the frame passes the check (R91, R104). -/
theorem chkWord_halves_eq_iff (F : FrameWord) :
    (chkWord F).toNat / 2 ^ 8 = (chkWord F).toNat % 2 ^ 8 ↔ chkOk F = true := by
  have hbyte := (chkb F).isLt
  have hzero : byteOf F 0 = chkb F := rfl
  rw [chkOk_iff, hzero, chkWord_toNat]
  omega

/-! ### What the invariant says of the frame and of VALID (R26) -/

/-- No pulse has been taken in IDLE or after a failed START, so the frame is 0. -/
theorem Arch.Reachable.frame_eq_zero {a : Arch} (ha : a.Reachable)
    (h : a.phase = .idle ∨ a.result = .noResponse ∨ a.result = .incompleteCapture) : a.frame = 0 := by
  obtain ⟨hidle, -, -, -, -, hfailed⟩ := ha
  rcases h with hp | hr
  · exact (hidle hp).left
  · obtain ⟨-, -, hframe⟩ := hfailed hr
    exact hframe

/-- After a 40th pulse RESULT is OK exactly when the frame passes the check. -/
theorem Arch.Reachable.ok_iff_chkOk {a : Arch} (ha : a.Reachable) (hp : a.phase = .done) (hc : a.bitcnt.val = 40) :
    a.result = .ok ↔ chkOk a.frame = true := by
  obtain ⟨-, -, -, -, hverdict, -⟩ := ha
  exact hverdict hp hc

/-- After a 40th pulse VALID is the check of the frame. -/
theorem Arch.Reachable.valid_eq_chkOk {a : Arch} (ha : a.Reachable) (hp : a.phase = .done) (hc : a.bitcnt.val = 40) :
    a.valid = chkOk a.frame := by
  rw [Bool.eq_iff_iff, Arch.valid_iff, ← ha.ok_iff_chkOk hp hc]
  exact and_iff_right hp

/-- Only a whole frame has a verdict, so VALID stands for 40 pulses. -/
theorem Arch.Reachable.bitcnt_of_valid {a : Arch} (ha : a.Reachable) (hv : a.valid = true) : a.bitcnt.val = 40 := by
  obtain ⟨-, -, -, hwhole, -, -⟩ := ha
  obtain ⟨-, hr⟩ := a.valid_iff.mp hv
  exact (hwhole.mp (.inl hr)).right

/-! ### The result port (R107) -/

theorem State.resultPort_eq_some_iff {s : State} {port : ResultPort} :
    s.resultPort = some port ↔ s.launch = .live ∧ s.arch.resultPort = port := by
  cases hl : s.launch <;> simp [State.resultPort, hl]

/-- With a valid reading the result port shows the two fields (R107). -/
theorem Arch.resultPort_of_valid {a : Arch} (h : a.valid = true) :
    a.resultPort.humidity = hum a.frame ∧ a.resultPort.temperature = temp a.frame := by
  simp [Arch.resultPort, h]

/-- Settles O40. -/
theorem resultPortOutputs : Obligations.ResultPortOutputs := fun s hl =>
  ⟨s.arch.resultPort, State.resultPort_live hl, beq_iff_eq, rfl, s.arch.valid_iff, rfl, rfl⟩

/-- Settles O30: the slices give the fields back, and at the end of an attempt VALID is the check of the frame. -/
theorem sliceRoundTrip : Obligations.SliceRoundTrip := by
  intro a h t c hframe
  obtain ⟨hh, ht, hc⟩ : hum a.frame = h ∧ temp a.frame = t ∧ chkb a.frame = c := hframe ▸ slices_append h t c
  refine ⟨hh, ht, hc, hh, ht, fun ha hp h40 => ⟨fun hpass => ?_, fun hfail => ?_⟩⟩
  · obtain ⟨hhum, htemp⟩ := Arch.resultPort_of_valid ((ha.valid_eq_chkOk hp h40).trans hpass)
    exact ⟨hhum.trans hh, htemp.trans ht⟩
  · obtain ⟨-, hgated⟩ := Arch.resultPort_of_not_valid ((ha.valid_eq_chkOk hp h40).trans hfail)
    exact hgated

/-- Settles O41: under the invariant VALID stands for a whole frame that passed the check, and it gates the fields. -/
theorem noPartialFrameShown : Obligations.NoPartialFrameShown := by
  intro s port hs hport
  obtain ⟨hl, rfl⟩ := State.resultPort_eq_some_iff.mp hport
  refine ⟨fun (hv : s.arch.valid = true) => ?_, fun (hv : s.arch.valid = false) => ?_⟩
  · obtain ⟨hp, -⟩ := s.arch.valid_iff.mp hv
    have h40 := (hs hl).bitcnt_of_valid hv
    have hchk := ((hs hl).valid_eq_chkOk hp h40).symm.trans hv
    obtain ⟨hhum, htemp⟩ := Arch.resultPort_of_valid hv
    exact ⟨beq_iff_eq.mpr hp, h40, hchk, hhum ▸ hum_toNat _, htemp ▸ temp_toNat _⟩
  · obtain ⟨-, hgated⟩ := Arch.resultPort_of_not_valid hv
    exact hgated

/-! ### The read port (R101) -/

/-- The select map has four rows of one select each and the reserved row (R63). -/
theorem select_cases : ∀ rsel : Select,
    rsel = 0#3 ∨ rsel = 1#3 ∨ rsel = 2#3 ∨ rsel = 3#3 ∨ 4 ≤ rsel.toNat := by
  decide

theorem Arch.readPort_reserved (a : Arch) {rsel : Select} (h : 4 ≤ rsel.toNat) : a.readPort rsel = 0x0000#16 := by
  have hne : ∀ {k : Select}, k.toNat < 4 → rsel ≠ k := by
    rintro k hk rfl
    omega
  rw [Arch.readPort, if_neg (hne (by decide)), if_neg (hne (by decide)), if_neg (hne (by decide)),
    if_neg (hne (by decide))]

/-- The read instruction of a select gives the consumer what the read port shows (R101). -/
theorem exec_decodeSelect_live {s : State} (hl : s.launch = .live) (rsel : Select) :
    exec (decodeSelect rsel) s = .next (s.setLastRead (s.arch.readPort rsel)) := by
  rcases select_cases rsel with rfl | rfl | rfl | rfl | h
  · exact exec_rdHum_live hl
  · exact exec_rdTemp_live hl
  · exact exec_rdChk_live hl
  · exact exec_rdStatus_live hl
  · rw [decodeSelect_reserved h, s.arch.readPort_reserved h]
    exact exec_rdR4toR7_live rsel hl

/-- Settles O31, by the rows of the select map. -/
theorem readPortMap : Obligations.ReadPortMap := by
  intro s rsel hl
  have hrow {k : Select} (h : rsel.toNat = k.toNat) : s.arch.readPort rsel = s.arch.readPort k :=
    congrArg s.arch.readPort (BitVec.eq_of_toNat_eq h)
  exact ⟨State.rdata_live hl rsel, exec_decodeSelect_live hl rsel, hrow (k := 0#3), hrow (k := 1#3), hrow (k := 2#3),
    hrow (k := 3#3), s.arch.readPort_reserved⟩

/-! ### The reads (R102 to R106) -/

/-- Settles O32. -/
theorem readHumidity : Obligations.ReadHumidity := by
  intro s hl
  refine ⟨hum s.arch.frame, hum_toNat _, exec_rdHum_live hl, fun ha h => ?_⟩
  rw [ha.frame_eq_zero h]
  rfl

/-- Settles O33. -/
theorem readTemperature : Obligations.ReadTemperature := by
  intro s hl
  refine ⟨temp s.arch.frame, temp_toNat _, temp_getLsbD (by decide) _, exec_rdTemp_live hl, fun ha h => ?_⟩
  rw [ha.frame_eq_zero h]
  rfl

/-- Settles O34: the two halves agree exactly when the frame passes the check, and that decides the verdict. -/
theorem readChecksums : Obligations.ReadChecksums := by
  intro s hl
  have hword := chkWord_toNat s.arch.frame
  have hbyte := chkb_toNat s.arch.frame
  refine ⟨chkWord s.arch.frame, exec_rdChk_live hl, by omega, by omega, fun ha hp hc => ?_, fun ha hp => ?_⟩
  · rw [chkWord_halves_eq_iff, ha.ok_iff_chkOk hp hc]
  · rw [ha.frame_eq_zero (.inl hp)]
    rfl

/-- Settles O35, from the fields of STATUS. -/
theorem readStatus : Obligations.ReadStatus := by
  intro s hl
  obtain ⟨hfields, hreset⟩ := statusFields
  obtain ⟨-, -, -, -, hvalid, htop⟩ := hfields s.arch
  refine ⟨s.arch.statusWord, exec_rdStatus_live hl, rfl, by omega, ?_, fun h => ?_⟩
  · rw [hvalid, Arch.valid_iff]
  · rw [h, hreset]

/-- Settles O36. -/
theorem readReserved : Obligations.ReadReserved := fun _ rsel hl => exec_rdR4toR7_live rsel hl

end Sys2Proof.Machine
end

section
/-! SUPPORT. START and the reserved opcodes in a live core (R115, R117), the phase that a move leaves (R118,
R119), and the statements of the sequencing family. -/

namespace Sys2Proof.Machine

/-! ### START and the reserved opcodes in a live core (R115, R117) -/

section
variable {s : State}

theorem exec_start_live (p : Bool) (count : EventCount) (hl : s.launch = .live) :
    exec (.start p count) s = .next (s.setArch (startAttempt s.params p count s.arch)) :=
  ifLive_live hl _

/-- All three reserved rows share the one meaning (R117). -/
theorem exec_rsvd_live {i : Instr} (hi : isRsvd i = true) (hl : s.launch = .live) :
    exec i s = .next (s.setArch s.arch.setProtoErr) := by
  cases i with
  | rsvd3 | rsvd4to7 | rsvd8toF => exact ifLive_live hl _
  | _ => simp [isRsvd] at hi

end

/-! ### The phase, by the move of the five elements (R118) -/

/-- A pulse that the accumulator takes stays in ACCUM, but for the 40th, which ends the attempt (R78). -/
theorem accumulate_phase {P : Params} {dur : Duration} {a b : Arch} (hp : a.phase = .accum)
    (h : accumulate P dur a = some b) : b.phase = if a.bitcnt.val = 39 then .done else .accum := by
  rcases accumulate_cases P dur a with ⟨hlt, hb⟩ | ⟨h39, hb⟩ | ⟨-, hb⟩
  · cases hb.symm.trans h
    simp [hp, hlt.ne]
  · cases hb.symm.trans h
    simp [h39]
  · cases hb.symm.trans h

theorem isStart_iff {i : Instr} : isStart i = true ↔ ∃ p count, i = .start p count := by
  cases i <;> simp [isStart]

theorem ne_start_of_isStart {i : Instr} (hi : isStart i = false) (p : Bool) (count : EventCount) :
    i ≠ .start p count := by
  rintro rfl
  simp [isStart] at hi

theorem CoreMove.of_start {P : Params} {a b : Arch} {p : Bool} {count : EventCount}
    (m : CoreMove P a (.start p count) b) : b = startAttempt P p count a := by
  cases m with
  | keep _ h => simp [isRead] at h
  | breach _ h => simp [isRsvd] at h
  | start => rfl

/-- Outside ACCUM every instruction but START writes PROTO_ERR at most (R119). -/
theorem CoreMove.of_not_accum {P : Params} {a b : Arch} {i : Instr} (m : CoreMove P a i b) (hp : a.phase ≠ .accum)
    (hi : isStart i = false) : b = a ∨ b = a.setProtoErr := by
  cases m with
  | keep => exact .inl rfl
  | breach => exact .inr rfl
  | start => simp [isStart] at hi
  | pulse _ _ hacc => exact absurd hacc hp

/-- The 40th pulse of an open attempt, the one command but START that moves the phase (R118). -/
def EndsAttempt (i : Instr) (a : Arch) : Prop := a.phase = .accum ∧ (∃ dur, i = .pulse dur) ∧ a.bitcnt.val = 39

/-- How a move that is no START sets the phase. -/
theorem CoreMove.phase_of_not_start {P : Params} {a b : Arch} {i : Instr} (m : CoreMove P a i b)
    (hi : isStart i = false) : (EndsAttempt i a ∧ b.phase = .done) ∨ (¬ EndsAttempt i a ∧ b.phase = a.phase) := by
  cases m with
  | keep _ h =>
    refine .inr ⟨?_, rfl⟩
    rintro ⟨-, ⟨dur, rfl⟩, -⟩
    simp [isRead] at h
  | breach _ h =>
    refine .inr ⟨?_, rfl⟩
    rintro ⟨hacc, ⟨dur, rfl⟩, -⟩
    simp [isRsvd, hacc] at h
  | start => simp [isStart] at hi
  | pulse dur _ hacc hb =>
    rw [accumulate_phase hacc hb]
    by_cases h39 : a.bitcnt.val = 39
    · exact .inl ⟨⟨hacc, ⟨dur, rfl⟩, h39⟩, if_pos h39⟩
    · exact .inr ⟨fun ⟨_, _, hc⟩ => h39 hc, by rw [if_neg h39, hacc]⟩

theorem isStart_decodeSelect : ∀ rsel : Select, isStart (decodeSelect rsel) = false := by
  decide

/-! ### The statements -/

/-- Settles O45: START sets the phase by its operands alone; any other instruction keeps it, but for the 40th pulse. -/
theorem phaseMoves : Obligations.PhaseMoves := by
  intro i s t _ h
  obtain ⟨-, hmove, -, -⟩ := exec_next h
  cases hi : isStart i with
  | true =>
    obtain ⟨p, count, rfl⟩ := isStart_iff.mp hi
    rw [hmove.of_start]
    rcases startAttempt_cases s.params p count s.arch with ⟨rfl, ha⟩ | ⟨rfl, hc, ha⟩ | ⟨rfl, hc, ha⟩
    · simp [ha]
    · simp [ha, hc]
    · simp [ha, hc]
  | false =>
    have hne := ne_start_of_isStart hi
    rcases hmove.phase_of_not_start hi with ⟨⟨hacc, hpulse, h39⟩, ht⟩ | ⟨hstay, ht⟩
    · simp [ht, hacc, hpulse, h39, hne]
    · cases hp : s.arch.phase with
      | idle => simp [ht, hp, hne]
      | accum =>
        have hopen : ¬ ((∃ dur, i = .pulse dur) ∧ s.arch.bitcnt.val = 39) := fun hend => hstay ⟨hp, hend⟩
        simp [ht, hp, hne, hopen]
      | done => simp [ht, hp, hne]

/-- Settles O46, by the cases of a step: a command that is no START, or a read, writes PROTO_ERR at most. -/
theorem doneIsTerminal : Obligations.DoneIsTerminal := by
  intro s t _ hp h
  rcases step_cases s with ⟨-, hs⟩ | ⟨v, w, _, hin, -⟩ | ⟨pw, rest, hin, hs⟩ | ⟨_, rest, -, hs⟩ | ⟨_, hin, -⟩
  · cases hs.symm.trans h
    exact .inl ⟨hp, rfl, rfl, rfl⟩
  · exact .inr (.inl ⟨v, w, by rw [hin]; rfl⟩)
  · cases hi : isStart (decode pw) with
    | false =>
      obtain ⟨-, hmove, -, -⟩ := exec_next (hs.symm.trans h)
      rcases hmove.of_not_accum (by simp [hp]) hi with hb | hb <;> rw [hb] <;> exact .inl ⟨hp, rfl, rfl, rfl⟩
    | true =>
      cases pw with
      | command w => exact .inr (.inr (.inl ⟨w, by rw [hin]; rfl, hi⟩))
      | select rsel => exact absurd hi (by simp [decode, isStart_decodeSelect])
  · cases hs.symm.trans h
    exact .inl ⟨hp, rfl, rfl, rfl⟩
  · exact .inr (.inr (.inr (by rw [hin]; rfl)))

/-- Settles O42, by the three things that START can leave. -/
theorem startEffect : Obligations.StartEffect := by
  intro s p count hl
  rw [exec_start_live p count hl]
  refine ⟨?_, ?_, ?_⟩
  · rintro rfl
    rw [startAttempt_absent]
    rfl
  · rintro rfl hc
    rw [startAttempt_short hc]
    rfl
  · rintro rfl hc
    rw [startAttempt_qualifies hc]
    rfl

/-- Settles O43. -/
theorem nopEffect : Obligations.NopEffect := fun _ hl => ifLive_live hl _

/-- Settles O44: the three reserved rows have one meaning. -/
theorem reservedOpcodeEffect : Obligations.ReservedOpcodeEffect := fun _ _ hi hl => exec_rsvd_live hi hl

end Sys2Proof.Machine
end

section
/-! SUPPORT. Completion, what PROTO_ERR notes of a whole command stream, how RESULT changes, a step by its event, the
ports before the first reset, and the statements of the exceptions family. -/

namespace Sys2Proof.Machine

/-! ### Completion (R130, R156) -/

/-- While the count is below 40 the accumulator takes the pulse (R22). -/
theorem accumulate_of_room (P : Params) (dur : Duration) {a : Arch} (h : a.bitcnt.val ≤ 39) :
    ∃ b, accumulate P dur a = some b := by
  rcases accumulate_cases P dur a with ⟨_, hb⟩ | ⟨_, hb⟩ | ⟨h40, _⟩
  · exact ⟨_, hb⟩
  · exact ⟨_, hb⟩
  · omega

/-- Settles O10: only a pulse could be refused, and the invariant leaves room for it while the attempt is open. -/
theorem everyInstructionCompletes : Obligations.EveryInstructionCompletes := by
  intro i s hl hs
  cases i with
  | pulse dur =>
    by_cases hp : s.arch.phase = .accum
    · obtain ⟨-, hopen, -⟩ := hs hl
      obtain ⟨h39, -, -⟩ := hopen hp
      obtain ⟨b, hb⟩ := accumulate_of_room s.params dur h39
      exact ⟨_, exec_pulse_taken hl hp hb⟩
    · exact ⟨_, exec_pulse_dropped hl hp⟩
  | _ => exact ⟨_, ifLive_live hl _⟩

/-! ### PROTO_ERR over an attempt (R25, R132) -/

/-- A command stream that begins with START goes on from what START leaves (R115). -/
theorem execAll_start_live {s : State} (hl : s.launch = .live) (p : Bool) (count : EventCount) (body : List Instr) :
    execAll (.start p count :: body) s = execAll body (s.setArch (startAttempt s.params p count s.arch)) := by
  rw [execAll, exec_start_live p count hl]

/-- Where no pulse is dropped, a move that is no START notes only a reserved opcode. -/
theorem CoreMove.protoErr_of_no_drop {P : Params} {a b : Arch} {i : Instr} (m : CoreMove P a i b)
    (hi : isStart i = false) (hopen : (∃ dur, i = .pulse dur) → a.phase = .accum) :
    b.protoErr = (a.protoErr || isRsvd i) := by
  have hdrop : ¬ ((∃ dur, i = .pulse dur) ∧ a.phase ≠ .accum) := fun ⟨hpulse, hp⟩ => hp (hopen hpulse)
  rw [Bool.eq_iff_iff, m.protoErr_iff]
  simp [hi, hdrop]

/-- While an attempt has room for the pulses of a stream, PROTO_ERR notes only the reserved opcodes in it. -/
theorem execAll_protoErr_of_hasTaken {body : List Instr} {s t : State} {bits : List Bool} (hl : s.launch = .live)
    (hbody : body.any isStart = false) (h : s.arch.HasTaken bits)
    (hroom : (bits ++ bitsOf s.params body).length ≤ 40) (ht : execAll body s = .next t) :
    t.arch.protoErr = (s.arch.protoErr || body.any isRsvd) := by
  induction body generalizing s bits with
  | nil =>
    cases ht
    simp
  | cons i is ih =>
    simp only [List.any_cons, Bool.or_eq_false_iff] at hbody
    obtain ⟨hi, his⟩ := hbody
    rw [bitsOf_cons, ← List.append_assoc] at hroom
    have hroom_i : (bits ++ bitsOf s.params [i]).length ≤ 40 := by
      rw [List.length_append] at hroom
      omega
    obtain ⟨u, hu, hbits⟩ := exec_hasTaken hl hi h hroom_i
    have hopen : (∃ dur, i = .pulse dur) → s.arch.phase = .accum := by
      rintro ⟨dur, rfl⟩
      exact h.phase_of_short (by simpa [durationsOf] using hroom_i)
    obtain ⟨-, hmove, -, -⟩ := exec_next hu
    rw [execAll, hu] at ht
    rw [← exec_params hu] at hbits hroom
    rw [ih ((exec_launch hu).trans hl) his hbits hroom ht, hmove.protoErr_of_no_drop hi hopen, List.any_cons,
      Bool.or_assoc]

/-- A whole attempt with its verdict is valid exactly when its frame passes the check (R92, R107). -/
theorem Arch.HasTaken.valid_eq_chkOk {a : Arch} {bits : List Bool} (h : a.HasTaken bits) (hlen : bits.length = 40) :
    a.valid = chkOk a.frame := by
  rw [Bool.eq_iff_iff, Arch.valid_iff, h.phase, h.result, if_pos hlen, if_pos hlen, verdict_ok_iff]
  exact and_iff_right rfl

/-- Settles O24: START clears PROTO_ERR, and the 40 pulses all have room, so only the reserved opcodes are noted. -/
theorem cleanReadingAfterAttempt : Obligations.CleanReadingAfterAttempt := by
  intro s p count body hl hattempt
  obtain ⟨hq, hbody, h40⟩ := hattempt
  obtain ⟨t, ht, htaken⟩ := execAll_attempt hl hq hbody h40.le
  have hflag : t.arch.protoErr = body.any isRsvd := by
    rw [execAll_start_live hl] at ht
    have hopened := startAttempt_hasTaken hq s.arch
    simpa using execAll_protoErr_of_hasTaken (s := s.setArch (startAttempt s.params p count s.arch)) hl hbody hopened
      (by simp [h40]) ht
  have hvalid := htaken.valid_eq_chkOk ((length_bitsOf _ _).trans h40)
  exact ⟨t, ht, hflag, by rw [CleanReading, hvalid, hflag]⟩

/-! ### A closed attempt (R119, R133 item 2) -/

/-- PROTO_ERR set if a PULSE or a reserved opcode stands in a command stream, and every other element as it was. -/
def Arch.noteBreaches (body : List Instr) (a : Arch) : Arch :=
  { a with protoErr := a.protoErr || (body.any isRsvd || !(durationsOf body).isEmpty) }

theorem Arch.noteBreaches_nil (a : Arch) : a.noteBreaches [] = a := by
  simp [Arch.noteBreaches, durationsOf]

theorem Arch.noteBreaches_cons (i : Instr) (body : List Instr) (a : Arch) :
    a.noteBreaches (i :: body) = (a.noteBreaches [i]).noteBreaches body := by
  cases i <;> simp [Arch.noteBreaches, durationsOf, isRsvd]

/-- Outside ACCUM every instruction but START completes, and only notes a breach (R78, R117). -/
theorem exec_of_not_accum {i : Instr} {s : State} (hl : s.launch = .live) (hp : s.arch.phase ≠ .accum)
    (hi : isStart i = false) : ∃ t, exec i s = .next t ∧ t.arch = s.arch.noteBreaches [i] := by
  cases i with
  | start => simp [isStart] at hi
  | nop | rdHum | rdTemp | rdChk | rdStatus | rdR4toR7 =>
    exact ⟨_, ifLive_live hl _, by simp [Arch.noteBreaches, durationsOf, isRsvd]⟩
  | pulse dur =>
    exact ⟨_, exec_pulse_dropped hl hp, by simp [Arch.noteBreaches, durationsOf, Arch.setProtoErr]⟩
  | rsvd3 | rsvd4to7 | rsvd8toF =>
    exact ⟨_, exec_rsvd_live rfl hl, by simp [Arch.noteBreaches, isRsvd, Arch.setProtoErr]⟩

/-- The same for a command stream without a START. -/
theorem execAll_of_not_accum {body : List Instr} {s : State} (hl : s.launch = .live) (hp : s.arch.phase ≠ .accum)
    (hbody : body.any isStart = false) :
    ∃ t, execAll body s = .next t ∧ t.arch = s.arch.noteBreaches body := by
  induction body generalizing s with
  | nil => exact ⟨s, rfl, s.arch.noteBreaches_nil.symm⟩
  | cons i is ih =>
    simp only [List.any_cons, Bool.or_eq_false_iff] at hbody
    obtain ⟨hi, his⟩ := hbody
    obtain ⟨u, hu, hua⟩ := exec_of_not_accum hl hp hi
    obtain ⟨t, ht, hta⟩ := ih ((exec_launch hu).trans hl) (by rw [hua]; exact hp) his
    exact ⟨t, execAll_cons_next.mpr ⟨u, hu, ht⟩, by rw [hta, hua, ← Arch.noteBreaches_cons]⟩

/-- A START that fails leaves DONE with the failure's code (R115, R131). -/
theorem startAttempt_of_not_qualifies {P : Params} {p : Bool} {count : EventCount} (hq : ¬ Qualifies P p count)
    (a : Arch) : startAttempt P p count a =
      a.cleared.enterDone (if p then .incompleteCapture else .noResponse) := by
  rcases startAttempt_cases P p count a with ⟨rfl, h⟩ | ⟨rfl, -, h⟩ | ⟨rfl, hc, -⟩
  · exact h
  · exact h
  · exact absurd ⟨rfl, hc⟩ hq

/-- Settles O48: the failed START leaves DONE, where a stream without a START only notes its breaches. -/
theorem failedStartPrecludesDecoding : Obligations.FailedStartPrecludesDecoding := by
  intro s p count body hl hq hbody
  have hfail := startAttempt_of_not_qualifies hq s.arch
  rw [execAll_start_live hl, hfail]
  obtain ⟨t, ht, hta⟩ := execAll_of_not_accum (s := s.setArch (s.arch.cleared.enterDone _)) hl (by simp) hbody
  refine ⟨t, ht, ?_⟩
  rw [hta]
  simp [Arch.noteBreaches, Arch.enterDone, Arch.cleared]

/-! ### RESULT (R131, R134) -/

/-- A move that writes another RESULT is a START, or the 40th pulse with the verdict over its frame. -/
theorem CoreMove.result_cases {P : Params} {a b : Arch} {i : Instr} (m : CoreMove P a i b) :
    b.result = a.result
    ∨ (∃ p count, i = .start p count ∧ b = startAttempt P p count a)
    ∨ ((∃ dur, i = .pulse dur) ∧ b.bitcnt.val = 40 ∧ b.result = verdict b.frame) := by
  cases m with
  | keep => exact .inl rfl
  | breach => exact .inl rfl
  | start p count => exact .inr (.inl ⟨p, count, rfl, rfl⟩)
  | pulse dur b _ hacc =>
    rcases accumulate_cases P dur a with ⟨_, hb⟩ | ⟨_, hb⟩ | ⟨_, hb⟩ <;> cases hb.symm.trans hacc
    · exact .inl rfl
    · exact .inr (.inr ⟨⟨dur, rfl⟩, rfl, rfl⟩)

/-- Settles O49: the new code is the one that START leaves for its operands, or the verdict of the 40th pulse. -/
theorem outcomeCauses : Obligations.OutcomeCauses := by
  intro i s t _ h hne
  obtain ⟨-, hmove, -, -⟩ := exec_next h
  rcases hmove.result_cases with hkept | ⟨p, count, rfl, ht⟩ | ⟨hpulse, h40, hverdict⟩
  · exact absurd hkept hne
  · rw [ht]
    rcases startAttempt_cases s.params p count s.arch with ⟨rfl, ha⟩ | ⟨rfl, hc, ha⟩ | ⟨rfl, hc, ha⟩
    · simp [ha]
    · simp [ha, hc]
    · simp [ha, hc]
  · cases hchk : chkOk t.arch.frame <;> simp [hverdict, verdict, hchk, hpulse, h40]

/-! ### A step by its event, and the ports before the first reset (R143, R151, R154) -/

theorem step_of_command {s : State} {w : CommandWord} {rest : List PortEvent}
    (h : s.inputs = .edge false true w :: rest) : step s = exec (decodeCommand w) (s.setInputs rest) := by
  simp [step, h]

theorem step_of_powerUp {s : State} {rest : List PortEvent} (h : s.inputs = .powerUp :: rest) :
    step s = .next (powerUpCore (s.setInputs rest)) := by
  simp [step, h]

theorem State.rdata_beforeReset {s : State} (hl : s.launch = .beforeReset) (rsel : Select) : s.rdata rsel = none := by
  simp [State.rdata, hl]

theorem State.resultPort_beforeReset {s : State} (hl : s.launch = .beforeReset) : s.resultPort = none := by
  simp [State.resultPort, hl]

/-- Settles O4. -/
theorem powerUp : Obligations.PowerUp := fun _ _ hin =>
  ⟨_, step_of_powerUp hin, rfl, rfl, rfl, State.rdata_beforeReset rfl, State.resultPort_beforeReset rfl⟩

/-- Settles O5. -/
theorem noEventKeepsState : Obligations.NoEventKeepsState := by
  intro s hin
  simp [step, hin]

/-! ### The level of res_done (R135) -/

/-- `res_done` shows whether the phase is DONE (R107). -/
theorem Arch.resultPort_done_iff {a : Arch} : a.resultPort.done = true ↔ a.phase = .done := beq_iff_eq

/-- Only a START that qualifies leaves a phase other than DONE (R115). -/
theorem qualifies_of_startAttempt_phase {P : Params} {p : Bool} {count : EventCount} {a : Arch}
    (h : (startAttempt P p count a).phase ≠ .done) : Qualifies P p count := by
  by_contra hq
  exact h (by rw [startAttempt_of_not_qualifies hq, Arch.enterDone_phase])

/-- Settles O50: of the exits from DONE, a START that fails comes back to it and a power-up leaves no port value. -/
theorem resDoneIsALevel : Obligations.ResDoneIsALevel := by
  intro s t before after h hbefore hafter hdone hundone
  obtain ⟨hl, rfl⟩ := State.resultPort_eq_some_iff.mp hbefore
  obtain ⟨htl, rfl⟩ := State.resultPort_eq_some_iff.mp hafter
  have hleft : t.arch.phase ≠ .done := by
    rw [Ne, ← Arch.resultPort_done_iff, hundone]
    decide
  rcases doneIsTerminal s t hl (Arch.resultPort_done_iff.mp hdone) h with ⟨hp, -⟩ | hreset | ⟨w, hin, hi⟩ | hin
  · exact absurd hp hleft
  · exact .inl hreset
  · obtain ⟨p, count, hw⟩ := isStart_iff.mp hi
    obtain ⟨rest, hrest⟩ := List.head?_eq_some_iff.mp hin
    rw [step_of_command hrest, hw] at h
    obtain ⟨-, hmove, -, -⟩ := exec_next h
    rw [hmove.of_start] at hleft
    obtain ⟨rfl, hc⟩ := qualifies_of_startAttempt_phase hleft
    exact .inr ⟨w, count, hin, hw, hc⟩
  · obtain ⟨rest, hrest⟩ := List.head?_eq_some_iff.mp hin
    cases (step_of_powerUp hrest).symm.trans h
    simp at htl

end Sys2Proof.Machine
end

section
/-! SUPPORT. A step by its event for the events that remain, an instruction before the first reset, the reset state on
the ports, and the statements of the reset and hazards family that follow. -/

namespace Sys2Proof.Machine

/-! ### A step by its event (R150, R154, R155) -/

theorem step_of_reset {s : State} {v : Bool} {w : CommandWord} {rest : List PortEvent}
    (h : s.inputs = .edge true v w :: rest) : step s = .next (resetCore (s.setInputs rest)) := by
  simp [step, h]

theorem step_of_idle {s : State} {w : CommandWord} {rest : List PortEvent}
    (h : s.inputs = .edge false false w :: rest) : step s = .next (s.setInputs rest) := by
  simp [step, h]

theorem step_of_read {s : State} {rsel : Select} {rest : List PortEvent} (h : s.inputs = .read rsel :: rest) :
    step s = exec (decodeSelect rsel) (s.setInputs rest) := by
  simp [step, h]

/-- A word on either input port runs as the instruction that it decodes to. -/
theorem step_of_presentWord {s : State} {pw : PortWord} {rest : List PortEvent}
    (h : s.inputs = presentWord pw :: rest) : step s = exec (decode pw) (s.setInputs rest) := by
  cases pw with
  | command w => exact step_of_command h
  | select rsel => exact step_of_read h

/-- Presenting a word adds one event, and its step takes that event off again. -/
theorem step_present (s : State) (pw : PortWord) : step (s.present pw) = exec (decode pw) s :=
  step_of_presentWord (s.present_inputs pw)

/-! ### Reset (R150) -/

/-- After reset every select reads 0: FRAME is 0, so its sum is too, and STATUS is 0. -/
theorem Arch.readPort_reset : ∀ rsel : Select, Arch.reset.readPort rsel = 0x0000#16 := by
  decide

/-- A reset edge right after another one only takes its event off the list. -/
theorem resetCore_setInputs_resetCore (s : State) (es : List PortEvent) :
    resetCore ((resetCore s).setInputs es) = (resetCore s).setInputs es := rfl

/-- Settles O1: the next state is `resetCore`'s, and its ports and a second reset edge follow from it. -/
theorem resetEdge : Obligations.ResetEdge := by
  intro s v w rest hin
  refine ⟨resetCore (s.setInputs rest), step_of_reset hin, rfl, fun rsel => ?_,
    ⟨Arch.reset.resultPort, State.resultPort_live rfl, rfl, rfl⟩, fun v' w' rest' hrest => ?_⟩
  · rw [State.rdata_live rfl, resetCore_arch, Arch.readPort_reset]
  · rw [step_of_reset (s := resetCore (s.setInputs rest)) hrest, resetCore_setInputs_resetCore]
    rfl

/-! ### Before the first reset (R151) -/

/-- The launch is checked before the meaning of any instruction. -/
theorem exec_beforeReset {s : State} (hl : s.launch = .beforeReset) (i : Instr) :
    exec i s = .fault .beforeFirstReset := by
  cases i <;> exact ifLive_beforeReset hl _

/-- Settles O3: every instruction faults, so the step on any word does. -/
theorem beforeFirstReset : Obligations.BeforeFirstReset := by
  intro s hl
  refine ⟨exec_beforeReset hl, fun pw rest hin => ?_, State.rdata_beforeReset hl, State.resultPort_beforeReset hl⟩
  rw [step_of_presentWord hin]
  exact exec_beforeReset (s := s.setInputs rest) hl (decode pw)

/-! ### Edges and words (R154, R155) -/

/-- Settles O6: in a live core NOP also answers the state that it is given. -/
theorem clockEdge : Obligations.ClockEdge := by
  intro s w rest
  refine ⟨step_of_command, fun hin => ⟨step_of_idle hin, fun hl => ?_⟩⟩
  rw [step_of_idle hin]
  exact (nopEffect (s.setInputs rest) hl).symm

/-- Settles O7. -/
theorem stepRunsDecodedInstruction : Obligations.StepRunsDecodedInstruction := by
  rintro s pw rest _ hin rfl -
  exact step_of_presentWord hin

/-- The decoder reads an instruction from a transfer that is a port word, and from no other (R64). -/
theorem decodeTableWord_eq_some_iff {nbits w : Nat} {i : Instr} :
    decodeTableWord nbits w = some i ↔ ∃ pw, portWordOf nbits w = .ok pw ∧ decode pw = i := by
  cases h : portWordOf nbits w <;> simp [decodeTableWord, decodeTransfer, h]

theorem State.withFetchWord_of_portWord {nbits w : Nat} {pw : PortWord} (h : portWordOf nbits w = .ok pw) (s : State) :
    s.withFetchWord nbits w = s.present pw := by
  simp [State.withFetchWord, h]

/-- Settles O8: the transfer is a port word, and that word is presented as the next event. -/
theorem tableWordRuns : Obligations.TableWordRuns := by
  intro s nbits w i hdecode
  obtain ⟨pw, hpw, rfl⟩ := decodeTableWord_eq_some_iff.mp hdecode
  rw [State.withFetchWord_of_portWord hpw, step_present]

end Sys2Proof.Machine
end
